-- ==== Sys2Proof/Word.lean ====
section
/-! DEFINITION. The two word types of VEC: the byte of its memory (spec/20_memory.md R60) and the 32-bit register
(spec/10_state.md R20). -/
namespace Sys2Proof

/-- One byte of the data address space (R60). -/
abbrev Byte := BitVec 8

/-- One register, address or length (R20, R60). -/
abbrev Word := BitVec 32

end Sys2Proof
end

