-- ==== Sys2Proof/Config.lean ====
section
/-! DEFINITION. What a VEC implementation or platform fixes (spec/00_scope.md R7) and the free values: what the spec
calls "any value" (R15), as opaque functions that nothing can evaluate. -/
namespace Sys2Proof

/-- The constant the ID register reads (R3, R24). -/
def Config.idValue : Word := 0x56454331

/-- The parameters of R7 as plain data, so that State can hold them and a statement about every state ranges over
every platform. DMA_COHERENT has no field: it must be true (R71), log entry 5. DESIGN CHOICE (log entry 4): the
predicate MEM_RESPONDS is held as the list of half-open address ranges `[lo, hi)` that do not respond; any predicate
on the 2^32 addresses has such a list. -/
structure Config.Platform where
  /-- REG_BASE: where the 256-byte register window sits on the bus. -/
  regBase : Word
  /-- MAX_DIM: the largest WIDTH and HEIGHT a CSC command accepts. -/
  maxDim  : Nat
  /-- The ranges of addresses for which MEM_RESPONDS is false. -/
  silent  : List (Nat × Nat)
  deriving DecidableEq, Repr

/-- The platform of State.reset: MAX_DIM as R7 fixes it for the reference configuration. DESIGN CHOICE (log entry 4,
unsafe for statements about State.reset alone): REG_BASE and MEM_RESPONDS are OPEN in R7; here the window is at
0x4000_0000 and every address outside it responds. -/
def Config.referencePlatform : Config.Platform :=
  { regBase := 0x40000000, maxDim := 4096, silent := [] }

/-- Free value (R44, log entry 6, safe): the byte that an address nothing has written holds. -/
opaque Config.powerUpByte (address : Nat) : Byte

/-- Free value (R15, log entry 7, safe): the byte at `address` where the spec says "any value", at draw `draw`. -/
opaque Config.freeByte (draw address : Nat) : Byte

/-- Free value (R15, log entry 7, safe): a register the spec leaves at "any value"; `index` tells apart the registers
drawn together. -/
opaque Config.freeWord (draw index : Nat) : Word

/-- Free value (R15, log entry 7, safe): the choice among several outcomes the spec leaves open (R121, R126). -/
opaque Config.freeChoice (draw : Nat) : Nat

end Sys2Proof
end

