-- ==== Sys2Proof/Syntax.lean ====
section
/-! DEFINITION. The instructions of VEC: the seven commands of spec/opcode_table.json (spec/30_encoding.md R91). -/
namespace Sys2Proof

/-- One constructor per row of the opcode table. A command word has no operand field (R90): every operand is a latched
register (R93), so no constructor has an argument. An illegal word (R92) is no command; the step completes it with
ERR_BAD_CMD. -/
inductive Instr where
  /-- RGB24 frames to YUV420P frames (spec/41_color_transform.md R150). -/
  | cscEnc
  /-- YUV420P frames to RGB24 frames (R156). -/
  | cscDec
  /-- Frames to delta frames (spec/42_delta_rle_codec.md R172). -/
  | deltaEnc
  /-- Delta frames to frames (R176). -/
  | deltaDec
  /-- Run-length encode one buffer (R185). -/
  | rleEnc
  /-- Run-length decode one buffer (R191). -/
  | rleDec
  /-- Frames to tagged raw and run-length records (R199). -/
  | drleEnc
  deriving DecidableEq, Repr

end Sys2Proof
end

