-- ==== Sys2Proof/WellFormed.lean ====
section
/-! DEFINITION. What a well-formed command word and a legal platform are (spec/30_encoding.md R92, spec/00_scope.md
R7). An instruction has no field (R90), so every Instr is well formed. -/
namespace Sys2Proof

/-- R90: no command has an operand field, so there is nothing in one that could be ill formed. -/
def Instr.wf (_ : Instr) : Bool := true

/-- R92: RSVD, bits 31:8, is 0. -/
def rsvdLegal (w : Word) : Bool := w.extractLsb' 8 24 == 0

/-- R92: OPCODE, bits 7:0, lies in 0x01 .. 0x07. -/
def opcodeLegal (w : Word) : Bool :=
  decide (1 ≤ (w.extractLsb' 0 8).toNat) && decide ((w.extractLsb' 0 8).toNat ≤ 7)

/-- R92: the word is a command, not illegal. -/
def commandWordLegal (w : Word) : Bool := rsvdLegal w && opcodeLegal w

/-- R7: REG_BASE is a 256-byte-aligned 32-bit address. -/
def Config.Platform.regBaseLegal (p : Config.Platform) : Bool := decide (p.regBase.toNat % 256 = 0)

/-- R7: MAX_DIM is even and lies in 2 .. 32768. -/
def Config.Platform.maxDimLegal (p : Config.Platform) : Bool :=
  decide (p.maxDim % 2 = 0) && decide (2 ≤ p.maxDim) && decide (p.maxDim ≤ 32768)

/-- R7: every parameter has a legal value (any MEM_RESPONDS is legal). -/
def Config.Platform.wf (p : Config.Platform) : Bool := p.regBaseLegal && p.maxDimLegal

end Sys2Proof
end

