-- ==== Sys2Proof/Decode.lean ====
section
/-! DEFINITION. The decoder (spec/30_encoding.md R95), total on every word and every list of bytes, and the encoder
written from the opcode map (R91). -/
namespace Sys2Proof

/-- Why a word or a list of bytes is no command (R92). -/
inductive DecodeReject where
  /-- RSVD, bits 31:8, is not 0. -/
  | reservedBits
  /-- OPCODE is 0x00 or lies in 0x08 .. 0xFF. -/
  | reservedOpcode
  /-- Fewer than the four bytes of a command word (R94: every command is exactly one 32-bit word). -/
  | truncated
  deriving DecidableEq, Repr

/-- OPCODE, bits 7:0 (R90). -/
def opcodeField (w : Word) : BitVec 8 := w.extractLsb' 0 8

/-- RSVD, bits 31:8 (R90). -/
def rsvdField (w : Word) : BitVec 24 := w.extractLsb' 8 24

/-- decode(w) of R95. -/
def decode (w : Word) : Except DecodeReject Instr :=
  if rsvdField w ≠ 0 then .error .reservedBits
  else
    match (opcodeField w).toNat with
    | 0x01 => .ok .cscEnc
    | 0x02 => .ok .cscDec
    | 0x03 => .ok .deltaEnc
    | 0x04 => .ok .deltaDec
    | 0x05 => .ok .rleEnc
    | 0x06 => .ok .rleDec
    | 0x07 => .ok .drleEnc
    | _ => .error .reservedOpcode

/-- A command word from its four bus lanes, bits 7:0 in the lowest-addressed lane (R64), and the lanes left over. -/
def decodeBytes : List Byte → Except DecodeReject (Instr × List Byte)
  | b0 :: b1 :: b2 :: b3 :: rest =>
    match decode (b3 ++ b2 ++ b1 ++ b0) with
    | .ok i => .ok (i, rest)
    | .error e => .error e
  | _ => .error .truncated

/-- The OPCODE of a command (R91). -/
def Instr.opcode : Instr → BitVec 8
  | .cscEnc   => 0x01
  | .cscDec   => 0x02
  | .deltaEnc => 0x03
  | .deltaDec => 0x04
  | .rleEnc   => 0x05
  | .rleDec   => 0x06
  | .drleEnc  => 0x07

/-- The command word of a command: OPCODE in bits 7:0, RSVD zero (R90, R91). -/
def encode (i : Instr) : Word := (0 : BitVec 24) ++ i.opcode

/-- What the decoder reads from an opcode-table word of `nbits` bits. VEC's commands are one 32-bit word, laid out in
its four byte lanes lowest first (R64), so bits from 32 up are no part of one. -/
def decodeTableWord (nbits w : Nat) : Option Instr :=
  let v := w % 2 ^ nbits
  if v < 2 ^ 32 then
    match decodeBytes [BitVec.ofNat 8 v, BitVec.ofNat 8 (v / 2 ^ 8), BitVec.ofNat 8 (v / 2 ^ 16),
        BitVec.ofNat 8 (v / 2 ^ 24)] with
    | .ok (i, _) => some i
    | .error _ => none
  else none

end Sys2Proof
end

