-- ==== Sys2Proof/Machine/State.lean ====
section
/-! DEFINITION. The state of a VEC system as plain data (spec/10_state.md), the reasons a step can stop, and the state
after reset (spec/70_reset_and_hazards.md R240). -/
namespace Sys2Proof.Machine

/-- The engine phase (R37). -/
inductive Phase where
  | idle
  | busy
  deriving DecidableEq, Repr

/-- The seven operand registers (R31 to R34). -/
structure Operands where
  srcAddr  : Word
  srcLen   : Word
  dstAddr  : Word
  dstCap   : Word
  width    : Word
  height   : Word
  frameLen : Word
  deriving DecidableEq, Repr

/-- The latch L of the accept step: the command word and the seven operands (R36). -/
structure Latch where
  cmd      : Word
  operands : Operands
  deriving DecidableEq, Repr

/-- The five result registers (R35). -/
structure Results where
  len     : Word
  frames  : Word
  discard : Word
  payload : Word
  errInfo : Word
  deriving DecidableEq, Repr

/-- What happens next in the system (R110). A host access is a bus transaction of one or more bytes at consecutive
addresses; whether it reaches a register or memory is decided by its address (R20, R60). -/
inductive Turn where
  /-- A host reads `n` bytes from `addr` on (R110 (a), (b)). -/
  | hostRead (addr : Word) (n : Nat)
  /-- A host writes `data` to `addr` on, lowest address first (R110 (a), (b)). -/
  | hostWrite (addr : Word) (data : List Byte)
  /-- Hardware reset is asserted (R110 (d), R240). -/
  | hardReset
  /-- The engine takes its completion step, if it is enabled (R110 (c)). -/
  | completion
  deriving DecidableEq, Repr

/-- The data memory (R44, R60): the bytes written since power-up, as (address, byte) pairs in rising order of
address. An address it does not list has not been written (log entry 6). -/
abbrev Memory := List Host.Cell

/-- The canonical form: addresses strictly rising and inside the 2^32-byte space (R60). An unlisted address has no
byte of its own, so no listed entry can equal one (log entry 6). -/
abbrev Memory.wf (m : Memory) : Prop :=
  m.Pairwise (fun c d => c.1 < d.1) ∧ ∀ c ∈ m, c.1 < 2 ^ 32

/-- Everything the spec gives the system, the platform's parameters, and three fields of the model's own (`agenda`,
`busData`, `draws`). STATUS.BUSY is the phase (R37); ID, CAPS, CTRL, the IRQ line and the reserved offsets have no
storage of their own (R24, R25, R30, R39, R40). -/
structure State where
  /-- CMD: the last accepted command word (R26). -/
  cmd       : Word
  /-- SRC_ADDR .. FRAMELEN (R31 to R34). -/
  operands  : Operands
  /-- RES_LEN .. ERR_INFO (R35). -/
  results   : Results
  /-- STATUS.DONE (R27). -/
  done      : Bool
  /-- STATUS.ERROR (R27). -/
  error     : Bool
  /-- STATUS.ERRCODE (R27, R222). -/
  errcode   : BitVec 4
  /-- IRQ_EN bits 1:0: DONE_IE and ERR_IE (R28). -/
  irqEn     : BitVec 2
  /-- IRQ_STATUS bits 1:0: DONE_IP and ERR_IP (R29). -/
  irqStatus : BitVec 2
  /-- The engine phase (R37). -/
  phase     : Phase
  /-- The latch L, meaningful while BUSY only (R36). -/
  latch     : Latch
  /-- The race mark, meaningful while BUSY only (R38, R251). -/
  race      : Bool
  /-- The data memory (R44). -/
  mem       : Memory
  /-- The parameters of R7; no step changes them. -/
  plat      : Config.Platform
  /-- DESIGN CHOICE (log entry 1): the turns taken next, the first first. -/
  agenda    : List Turn
  /-- DESIGN CHOICE (log entry 14): what the last host read returned, lowest address first. -/
  busData   : List Byte
  /-- DESIGN CHOICE (log entry 7): the number of the next draw of free values. -/
  draws     : Nat
  deriving DecidableEq, Repr

/-- Why the system stops. VEC itself never stops (R220); this is about a host's access. -/
inductive Fault where
  /-- Raised by a host read or write turn that runs past the last address 2^32 - 1: those addresses do not exist
  (R60). Safe: the model stops (log entry 15). -/
  | addressOutsideSpace
  deriving DecidableEq, Repr

/-- Why the model gives no meaning. -/
inductive Refusal where
  /-- Raised by an arm of exec that has no meaning yet. Safe: the model stops. -/
  | notModelled (mnemonic : String)
  /-- Raised by a host access to the register window that is not an aligned 32-bit access: "not specified. A model
  refuses it" (R67). Safe: the model stops (log entry 17). -/
  | registerAccessForm
  /-- Raised by a host access to memory where the bus does not answer: the platform's, not VEC's (R60, R73). Safe: the
  model stops (log entry 16). -/
  | hostAccessUnanswered
  deriving DecidableEq, Repr

/-- Every operand register at its reset value (R23). -/
def Operands.reset : Operands :=
  { srcAddr := 0, srcLen := 0, dstAddr := 0, dstCap := 0, width := 0, height := 0, frameLen := 0 }

/-- Every result register at its reset value (R23), which is also what acceptance leaves (R111). -/
def Results.reset : Results := { len := 0, frames := 0, discard := 0, payload := 0, errInfo := 0 }

/-- The system right after hardware reset at power-up (R41, R240): every register at its value in R23, the phase IDLE,
nothing in memory written yet. DESIGN CHOICE: the latch, meaningless in IDLE, is zero (log entry 8); the platform is
the reference one (log entry 4); no turn is waiting (log entries 1 and 3), no host read has been made (14) and no
free value drawn (7). -/
def State.reset : State :=
  { cmd := 0, operands := Operands.reset, results := Results.reset
    done := false, error := false, errcode := 0, irqEn := 0, irqStatus := 0
    phase := .idle, latch := { cmd := 0, operands := Operands.reset }, race := false
    mem := [], plat := Config.referencePlatform, agenda := [], busData := [], draws := 0 }

end Sys2Proof.Machine
end

