-- ==== Sys2Proof/Machine/Flags.lean ====
section
/-! DEFINITION. Every flag computation: the error codes and their details (spec/60_exceptions.md R222, R223), the
STATUS word (spec/10_state.md R27), the interrupt line (R39), and what acceptance and completion do to the flags
(spec/40_command_execution.md R111, R126). -/
namespace Sys2Proof.Machine

/-- An error with its detail (R222, R223). -/
inductive CmdError where
  /-- The word is illegal (R115). -/
  | badCmd (w : Word)
  /-- 1 width, 2 height, 3 frame length (R116). -/
  | geometry (which : Nat)
  /-- 1 source region, 2 destination region (R118). -/
  | range (which : Nat)
  /-- The regions intersect (R119). -/
  | overlap
  /-- An odd SRC_LEN (R120) or the offset of the first zero count (R187). -/
  | rleMalformed (detail : Nat)
  /-- The required output length, saturated (R122). -/
  | capacity (required : Nat)
  /-- The address of a byte that does not respond (R224). -/
  | bus (address : Nat)
  deriving DecidableEq, Repr

/-- STATUS.ERRCODE of an error (R222). -/
def CmdError.code : CmdError → BitVec 4
  | .badCmd _       => 1
  | .geometry _     => 2
  | .range _        => 3
  | .overlap        => 4
  | .rleMalformed _ => 5
  | .capacity _     => 6
  | .bus _          => 7

/-- ERR_INFO of an error, modulo 2^32 (R223, R13). -/
def CmdError.info : CmdError → Word
  | .badCmd w       => w
  | .geometry n     => BitVec.ofNat 32 n
  | .range n        => BitVec.ofNat 32 n
  | .overlap        => 0
  | .rleMalformed n => BitVec.ofNat 32 n
  | .capacity n     => BitVec.ofNat 32 n
  | .bus a          => BitVec.ofNat 32 a

/-- STATUS.BUSY mirrors the phase (R27, R37). -/
def State.busy (s : State) : Bool := s.phase == .busy

/-- The word a read of STATUS returns (R27): bit 0 BUSY, 1 DONE, 2 ERROR, 3 zero, 7:4 ERRCODE, 31:8 zero. -/
def State.statusWord (s : State) : Word :=
  (0 : BitVec 24) ++ s.errcode ++ (0 : BitVec 1) ++ BitVec.ofBool s.error ++ BitVec.ofBool s.done
    ++ BitVec.ofBool s.busy

/-- The interrupt output (R39): some pending bit is enabled. -/
def State.irq (s : State) : Bool := (s.irqStatus &&& s.irqEn) != 0

/-- The flags after acceptance (R111): phase BUSY, DONE, ERROR and ERRCODE cleared, IRQ_STATUS not changed. -/
def State.startFlags (s : State) : State :=
  { s with phase := .busy, done := false, error := false, errcode := 0 }

/-- The flags after completion with `code` (R126): phase IDLE, DONE, ERROR and ERRCODE set, DONE_IP set, ERR_IP set
when the code is not 0. -/
def State.finishFlags (s : State) (code : BitVec 4) : State :=
  { s with
    phase := .idle, done := true, error := code != 0, errcode := code
    irqStatus := s.irqStatus ||| (if code = 0 then 0b01 else 0b11) }

end Sys2Proof.Machine
end

