-- ==== Sys2Proof/Machine/Operands.lean ====
section
/-! DEFINITION. What the latched operands mean: the regions and the footprint (spec/20_memory.md R62, R66), which
addresses respond (R60, R73), chunking (spec/43_pipeline.md R211) and the prechecks (spec/40_command_execution.md R114
to R120). All sums are on unbounded integers (R114). -/
namespace Sys2Proof.Machine

/-- The end of the source region, SRC_ADDR + SRC_LEN (R31). -/
def Operands.srcEnd (o : Operands) : Nat := o.srcAddr.toNat + o.srcLen.toNat

/-- The end of the destination region, DST_ADDR + DST_CAP (R32). -/
def Operands.dstEnd (o : Operands) : Nat := o.dstAddr.toNat + o.dstCap.toNat

/-- The address lies in the read region (R66). -/
def Operands.inReadRegion (o : Operands) (a : Nat) : Bool := decide (o.srcAddr.toNat ≤ a) && decide (a < o.srcEnd)

/-- The address lies in the write region (R66). -/
def Operands.inWriteRegion (o : Operands) (a : Nat) : Bool := decide (o.dstAddr.toNat ≤ a) && decide (a < o.dstEnd)

/-- The address lies in the footprint (R66). -/
def Operands.inFootprint (o : Operands) (a : Nat) : Bool := o.inReadRegion a || o.inWriteRegion a

/-- The address lies in the register window, REG_BASE .. REG_BASE + 0xFF (R20). -/
def inWindow (p : Config.Platform) (a : Nat) : Bool :=
  decide (p.regBase.toNat ≤ a) && decide (a < p.regBase.toNat + 256)

/-- MEM_RESPONDS of R7: the data bus answers at this address. -/
def memResponds (p : Config.Platform) (a : Nat) : Bool :=
  !p.silent.any (fun r => decide (r.1 ≤ a) && decide (a < r.2))

/-- The engine's access at this address is answered: MEM_RESPONDS holds and the address is not in VEC's own register
window, which counts as not responding (R60, R73). -/
def engineAnswered (p : Config.Platform) (a : Nat) : Bool := memResponds p a && !inWindow p a

/-- The number N of whole frames of length `fin` in the source region (R211). -/
def Operands.frameCount (o : Operands) (fin : Nat) : Nat := o.srcLen.toNat / fin

/-- The length of the tail that forms no whole frame (R211). -/
def Operands.tail (o : Operands) (fin : Nat) : Nat := o.srcLen.toNat - o.frameCount fin * fin

/-- A CSC dimension is illegal: odd, below 2 or above MAX_DIM (R116). -/
def dimIllegal (p : Config.Platform) (d : Word) : Bool :=
  decide (d.toNat % 2 = 1) || decide (d.toNat < 2) || decide (p.maxDim < d.toNat)

/-- Check 2 for CSC_ENC and CSC_DEC (R116): 1 for the width, 2 for the height, `none` for OK. -/
def geometryCsc (p : Config.Platform) (o : Operands) : Option Nat :=
  if dimIllegal p o.width then some 1
  else if dimIllegal p o.height then some 2
  else none

/-- Check 2 for DELTA_ENC, DELTA_DEC and DRLE_ENC (R116): 3 for a zero frame length. -/
def geometryDelta (o : Operands) : Option Nat := if o.frameLen = 0 then some 3 else none

/-- Check 3 (R118): 1 if the source region ends above 2^32, else 2 if the destination region does. -/
def rangeCheck (o : Operands) : Option Nat :=
  if o.srcEnd > 2 ^ 32 then some 1
  else if o.dstEnd > 2 ^ 32 then some 2
  else none

/-- Check 4 (R119): both regions are non-empty and they intersect. -/
def overlaps (o : Operands) : Bool :=
  decide (0 < o.srcLen.toNat) && decide (0 < o.dstCap.toNat) && decide (o.srcAddr.toNat < o.dstEnd)
    && decide (o.dstAddr.toNat < o.srcEnd)

/-- Check 5, RLE_DEC only (R120): the source length is odd. -/
def oddLength (o : Operands) : Option CmdError :=
  if o.srcLen.toNat % 2 = 1 then some (.rleMalformed o.srcLen.toNat) else none

/-- Checks 2 to 5 in the fixed order of R114 and R226 (a). `geometry` is check 2 of the command, `last` its check 5. -/
def prechecks (geometry : Option Nat) (last : Option CmdError) (o : Operands) : Option CmdError :=
  match geometry with
  | some g => some (.geometry g)
  | none =>
    match rangeCheck o with
    | some r => some (.range r)
    | none => if overlaps o then some .overlap else last

end Sys2Proof.Machine
end

