-- ==== Sys2Proof/Machine/Ops.lean ====
section
/-! DEFINITION. The named operations: memory and byte order (spec/00_scope.md R12, spec/20_memory.md R64), acceptance
(spec/40_command_execution.md R111), the run of a command (R114, R121), its completion, which is where errors are
taken (R126, spec/60_exceptions.md R227), and reset (spec/70_reset_and_hazards.md R240). -/
namespace Sys2Proof.Machine

/-! ## Memory -/

/-- The byte last written to an address, if one was. -/
def Memory.lookup : Memory → Nat → Option Byte
  | [], _ => none
  | (k, b) :: m, a => if k = a then some b else Memory.lookup m a

/-- MemRead(a, 1) of R12. An address that nothing has written holds a free value, the same at every read (R44, log
entry 6). -/
def Memory.read (m : Memory) (a : Nat) : Byte := (m.lookup a).getD (Config.powerUpByte a)

/-- MemBytes(a, n) of R12. -/
def Memory.readBytes (m : Memory) (a n : Nat) : List Byte := (List.range n).map fun i => m.read (a + i)

/-- The cells of a list of bytes from an address on. -/
def cellsFrom : Nat → List Byte → Memory
  | _, [] => []
  | a, b :: bs => (a, b) :: cellsFrom (a + 1) bs

/-- MemWriteBytes(a, bs) of R12: the cells below, the new cells, the cells above. -/
def Memory.writeBytes (m : Memory) (a : Nat) (bs : List Byte) : Memory :=
  m.filter (fun c => decide (c.1 < a)) ++ cellsFrom a bs ++ m.filter (fun c => decide (a + bs.length ≤ c.1))

/-- `n` bytes from `a` on, each "any value" (R15). -/
def freeBytes (draw a n : Nat) : List Byte := (List.range n).map fun i => Config.freeByte draw (a + i)

/-- The bytes of `v`, `n` of them, least significant first (R12, R64). -/
def leBytes : Nat → Nat → List Byte
  | 0, _ => []
  | n + 1, v => BitVec.ofNat 8 v :: leBytes n (v / 256)

/-- The unsigned integer of bytes, least significant first: MemRead(a, n) of R12 on the bytes read. -/
def leValue : List Byte → Nat
  | [] => 0
  | b :: bs => b.toNat + 256 * leValue bs

/-! ## The byte of memory a state holds -/

/-- The byte at an address. -/
def State.byteAt (s : State) (a : Nat) : Byte := s.mem.read a

/-! ## Acceptance -/

/-- The accept step with command word `w` (R111). It accesses no memory and leaves IRQ_STATUS as it is. -/
def State.accept (s : State) (w : Word) : State :=
  { s.startFlags with cmd := w, latch := { cmd := w, operands := s.operands }, race := false, results := Results.reset }

/-! ## The run of a command -/

/-- The record `r` that a command's computation returns (R121). The bytes read are the `readLen` ones from SRC_ADDR on
(R69). -/
structure Run where
  out     : List Byte
  readLen : Nat
  frames  : Nat
  discard : Nat
  payload : Nat
  bad     : Option Nat
  deriving DecidableEq, Repr

/-- The addresses the run reads, and those it would write inside the capacity (R121). -/
def touched (o : Operands) (r : Run) : List Nat :=
  List.range' o.srcAddr.toNat r.readLen ++ List.range' o.dstAddr.toNat (min r.out.length o.dstCap.toNat)

/-- exec_errors(r, L) of R121, in no order that matters (R226 (b)). -/
def execErrors (p : Config.Platform) (o : Operands) (r : Run) : List CmdError :=
  (match r.bad with
    | some off => [.rleMalformed off]
    | none => [])
  ++ (if o.dstCap.toNat < r.out.length then [.capacity (min r.out.length (2 ^ 32 - 1))] else [])
  ++ ((touched o r).filter (fun a => !engineAnswered p a)).map .bus

/-- The outcome of execute(L, M) (R114). -/
inductive Verdict where
  | ok (r : Run)
  | pre (e : CmdError)
  | exec (e : CmdError)
  deriving DecidableEq, Repr

/-- The execution error reported: any of the applicable ones, by a free choice (R121, log entry 7). -/
def drawError (draw : Nat) (e : CmdError) (es : List CmdError) : CmdError :=
  match es with
  | [] => e
  | _ :: _ => (e :: es).getD (Config.freeChoice draw % (es.length + 1)) e

/-- execute(L, M) of R114 after decoding, with the command's own checks 2 and 5 and its computation. -/
def execute (geometry : Option Nat) (last : Option CmdError) (compute : Operands → Memory → Run) (s : State) :
    Verdict :=
  match prechecks geometry last s.latch.operands with
  | some e => .pre e
  | none =>
    match execErrors s.plat s.latch.operands (compute s.latch.operands s.mem) with
    | [] => .ok (compute s.latch.operands s.mem)
    | e :: es => .exec (drawError s.draws e es)

/-! ## Completion, where errors are taken -/

/-- Every byte of `[a, a + n)` any value (R15). -/
def Memory.scramble (m : Memory) (draw a n : Nat) : Memory := m.writeBytes a (freeBytes draw a n)

/-- Four result registers of any value, with the ERR_INFO given (R125). -/
def Results.free (draw : Nat) (info : Word) : Results :=
  { len := Config.freeWord draw 0, frames := Config.freeWord draw 1, discard := Config.freeWord draw 2
    payload := Config.freeWord draw 3, errInfo := info }

/-- The data half of success (R124). -/
def State.commit (s : State) (r : Run) : State :=
  { s with
    mem := s.mem.writeBytes s.latch.operands.dstAddr.toNat r.out
    results :=
      { len := BitVec.ofNat 32 r.out.length, frames := BitVec.ofNat 32 r.frames
        discard := BitVec.ofNat 32 r.discard, payload := BitVec.ofNat 32 r.payload, errInfo := 0 } }

/-- The data half of a precheck error (R123): memory and RES_* stay as they are. -/
def State.rejectRun (s : State) (e : CmdError) : State :=
  { s with results := { s.results with errInfo := e.info } }

/-- The data half of an execution error (R125): the write region and RES_* are any value. -/
def State.spoilRun (s : State) (e : CmdError) : State :=
  { s with
    mem := s.mem.scramble s.draws s.latch.operands.dstAddr.toNat s.latch.operands.dstCap.toNat
    results := Results.free s.draws e.info
    draws := s.draws + 1 }

/-- The data half of a completion under a race (R126): the write region (if the range check passed), RES_* and
ERR_INFO are any value. -/
def State.spoilRace (s : State) : State :=
  { s with
    mem :=
      if rangeCheck s.latch.operands = none then
        s.mem.scramble s.draws s.latch.operands.dstAddr.toNat s.latch.operands.dstCap.toNat
      else s.mem
    results := Results.free s.draws (Config.freeWord s.draws 4)
    draws := s.draws + 1 }

/-- The code after a race: any value in 0 .. 7 (R126). -/
def raceCode (draw : Nat) : BitVec 4 := BitVec.ofNat 4 (Config.freeChoice draw % 8)

/-- The completion step (R126) with the outcome of the run. This is the one place where an error is taken: no host
state is saved, no mode changes and nothing is vectored to (R227); the next acceptance is the return (R228). -/
def State.complete (s : State) (v : Verdict) : State :=
  if s.race then s.spoilRace.finishFlags (raceCode s.draws)
  else
    match v with
    | .ok r => (s.commit r).finishFlags 0
    | .pre e => (s.rejectRun e).finishFlags e.code
    | .exec e => (s.spoilRun e).finishFlags e.code

/-- The completion of a command whose word decodes to no command (R92, R115). -/
def State.completeBadCommand (s : State) : State := s.complete (.pre (.badCmd s.latch.cmd))

/-! ## Reset -/

/-- The memory after a reset (R240): unchanged, or, if a command was running, its write region any value. The part of
a region past 2^32 does not exist (log entry 12). -/
def State.abortMemory (s : State) : Memory :=
  match s.phase with
  | .idle => s.mem
  | .busy =>
    s.mem.scramble s.draws s.latch.operands.dstAddr.toNat
      (min s.latch.operands.dstCap.toNat (2 ^ 32 - s.latch.operands.dstAddr.toNat))

/-- Hardware reset (R240), and soft reset, which has exactly its effect (R242). L, meaningless in IDLE, is left as it
is (log entry 8). -/
def State.resetMachine (s : State) : State :=
  { s with
    cmd := 0, operands := Operands.reset, results := Results.reset
    done := false, error := false, errcode := 0, irqEn := 0, irqStatus := 0
    phase := .idle, race := false, mem := s.abortMemory
    draws := match s.phase with
      | .idle => s.draws
      | .busy => s.draws + 1 }

end Sys2Proof.Machine
end

