-- ==== Sys2Proof/Machine/Chunking.lean ====
section
/-! DEFINITION. Frame sequences in memory (spec/43_pipeline.md R210 to R213): cutting the source region into frames and
the record a sequence command returns. -/
namespace Sys2Proof.Machine

/-- A frame is a byte list (spec/00_scope.md R14). -/
abbrev Frame := List Byte

/-- The whole frames of length `fin` of the source region, in order (R211). -/
def framesOf (o : Operands) (m : Memory) (fin : Nat) : List Frame :=
  (List.range (o.frameCount fin)).map fun i => m.readBytes (o.srcAddr.toNat + i * fin) fin

/-- The record of a sequence command with frame length `fin`, its output and its payload (R211, R121). -/
def sequenceRun (o : Operands) (fin : Nat) (out : List Byte) (payload : Nat) : Run :=
  { out := out, readLen := o.frameCount fin * fin, frames := o.frameCount fin, discard := o.tail fin
    payload := payload, bad := none }

end Sys2Proof.Machine
end

