-- ==== Sys2Proof/Machine/ColorTransform.lean ====
section
/-! DEFINITION. The ColorTransform family: CSC_ENC and CSC_DEC (spec/41_color_transform.md). Every value is an exact
rational (R141), written as a numerator over a positive denominator; the only rounding is the one a rule names. -/
namespace Sys2Proof.Machine

/-! ## Exact arithmetic (spec/00_scope.md R10) -/

/-- floor of `num / den`. -/
def floorQ (num : Int) (den : Nat) : Int := num / (den : Int)

/-- trunc of `num / den`: toward zero. -/
def truncQ (num : Int) (den : Nat) : Int := num.tdiv (den : Int)

/-- u8 of `num / den`: trunc, then modulo 256. -/
def u8Q (num : Int) (den : Nat) : Byte := BitVec.ofInt 8 (truncQ num den)

/-- The numerator of clamp of `num / den` to `[lo, hi]`, over the same denominator. -/
def clampQ (num : Int) (den : Nat) (lo hi : Int) : Int :=
  if num < lo * den then lo * den
  else if hi * den < num then hi * den
  else num

/-- A byte as an integer. -/
def byteInt (b : Byte) : Int := (b.toNat : Int)

/-! ## Forward transform -/

/-- Y of a pixel (R142). -/
def lumaY (r g b : Byte) : Byte :=
  u8Q (floorQ (299 * byteInt r + 587 * byteInt g + 114 * byteInt b) 1000) 1

/-- U_full of a pixel (R143), over the denominator 1000. -/
def chromaU (r g b : Byte) : Byte :=
  u8Q (-169 * byteInt r - 331 * byteInt g + 449 * byteInt b + 128000) 1000

/-- V_full of a pixel (R144), over the denominator 10000. -/
def chromaV (r g b : Byte) : Byte :=
  u8Q (4990 * byteInt r - 4180 * byteInt g - 813 * byteInt b + 1280000) 10000

/-- Byte `i` of a frame. Every index the frame functions form lies inside the frame; outside it the value is 0, which
nothing reads (log entry 19). -/
def byteOf (f : Frame) (i : Nat) : Byte := f.getD i 0

/-- A component function at pixel `p` of an RGB24 frame (R63: bytes 3p, 3p+1, 3p+2). -/
def pixelRgb (c : Byte → Byte → Byte → Byte) (f : Frame) (p : Nat) : Byte :=
  c (byteOf f (3 * p)) (byteOf f (3 * p + 1)) (byteOf f (3 * p + 2))

/-- The mean of four bytes, truncated (R147). -/
def mean4 (a b c d : Byte) : Byte := BitVec.ofNat 8 ((a.toNat + b.toNat + c.toNat + d.toNat) / 4)

/-- The chroma sample of the 2x2 block at block-row `by_`, block-column `bx` of a frame `w` pixels wide (R147). -/
def blockMean (c : Byte → Byte → Byte → Byte) (f : Frame) (w by_ bx : Nat) : Byte :=
  let p00 := 2 * by_ * w + 2 * bx
  mean4 (pixelRgb c f p00) (pixelRgb c f (p00 + 1)) (pixelRgb c f (p00 + w)) (pixelRgb c f (p00 + w + 1))

/-- The Y plane of an RGB24 frame, row-major (R148). -/
def lumaPlane (f : Frame) (w h : Nat) : Frame := (List.range (w * h)).map (pixelRgb lumaY f)

/-- One chroma plane of an RGB24 frame, its blocks row-major (R147, R148). -/
def chromaPlane (c : Byte → Byte → Byte → Byte) (f : Frame) (w h : Nat) : Frame :=
  (List.range (h / 2)).flatMap fun by_ => (List.range (w / 2)).map fun bx => blockMean c f w by_ bx

/-- csc_encode_frame(f, W, H) of R148: the Y plane, then U, then V. -/
def cscEncodeFrame (w h : Nat) (f : Frame) : Frame :=
  lumaPlane f w h ++ chromaPlane chromaU f w h ++ chromaPlane chromaV f w h

/-! ## Inverse transform -/

/-- A chroma byte offset by -128 (R151). -/
def chromaOffset (b : Byte) : Int := byteInt b - 128

/-- R of R152, with `v` the offset chroma. -/
def redOf (y : Byte) (v : Int) : Byte := u8Q (clampQ (1000 * byteInt y + 1402 * v) 1000 0 255) 1000

/-- G of R152. -/
def greenOf (y : Byte) (u v : Int) : Byte := u8Q (clampQ (1000 * byteInt y - 344 * u - 714 * v) 1000 0 255) 1000

/-- B of R152. -/
def blueOf (y : Byte) (u : Int) : Byte := u8Q (clampQ (1000 * byteInt y + 1772 * u) 1000 0 255) 1000

/-- The three bytes of the pixel at row `j`, column `k` of a YUV420P frame (R151, R155). -/
def pixelYuv (w h : Nat) (f : Frame) (j k : Nat) : Frame :=
  let q := (j / 2) * (w / 2) + k / 2
  let y := byteOf f (j * w + k)
  let u := chromaOffset (byteOf f (w * h + q))
  let v := chromaOffset (byteOf f (w * h + w * h / 4 + q))
  [redOf y v, greenOf y u v, blueOf y u]

/-- csc_decode_frame(f, W, H) of R155, row-major. -/
def cscDecodeFrame (w h : Nat) (f : Frame) : Frame :=
  (List.range h).flatMap fun j => (List.range w).flatMap fun k => pixelYuv w h f j k

/-! ## The commands -/

/-- F_rgb (R140). -/
def frameRgb (w h : Nat) : Nat := 3 * w * h

/-- F_yuv (R140). -/
def frameYuv (w h : Nat) : Nat := 3 * w * h / 2

/-- compute_CSC_ENC of R149. -/
def computeCscEnc (o : Operands) (m : Memory) : Run :=
  let w := o.width.toNat
  let h := o.height.toNat
  sequenceRun o (frameRgb w h) ((framesOf o m (frameRgb w h)).flatMap (cscEncodeFrame w h))
    (o.frameCount (frameRgb w h) * frameYuv w h)

/-- compute_CSC_DEC of R155. -/
def computeCscDec (o : Operands) (m : Memory) : Run :=
  let w := o.width.toNat
  let h := o.height.toNat
  sequenceRun o (frameYuv w h) ((framesOf o m (frameYuv w h)).flatMap (cscDecodeFrame w h))
    (o.frameCount (frameYuv w h) * frameRgb w h)

/-- CSC_ENC (R150). -/
def execCscEnc (s : State) : Host.Outcome State Fault Refusal :=
  .next (s.complete (execute (geometryCsc s.plat s.latch.operands) none computeCscEnc s))

/-- CSC_DEC (R156). -/
def execCscDec (s : State) : Host.Outcome State Fault Refusal :=
  .next (s.complete (execute (geometryCsc s.plat s.latch.operands) none computeCscDec s))

end Sys2Proof.Machine
end

