-- ==== Sys2Proof/Machine/DeltaRle.lean ====
section
/-! DEFINITION. The DeltaRLECodec family: DELTA_ENC, DELTA_DEC, RLE_ENC, RLE_DEC and DRLE_ENC
(spec/42_delta_rle_codec.md). -/
namespace Sys2Proof.Machine

/-! ## Delta -/

/-- (current - previous) mod 256, byte by byte (R171). -/
def subFrame (cur prev : Frame) : Frame := List.zipWith (fun c p => c - p) cur prev

/-- (delta + previous) mod 256, byte by byte (R174). -/
def addFrame (d prev : Frame) : Frame := List.zipWith (fun a b => a + b) d prev

/-- The delta frames after a frame: the previous frame is always the original one (R171). -/
def deltaAfter : Frame → List Frame → List Frame
  | _, [] => []
  | prev, cur :: rest => subFrame cur prev :: deltaAfter cur rest

/-- delta_encode_seq of R171: frame 0 verbatim. -/
def deltaEncodeSeq : List Frame → List Frame
  | [] => []
  | f :: fs => f :: deltaAfter f fs

/-- The frames after a reconstructed frame (R174). -/
def sumAfter : Frame → List Frame → List Frame
  | _, [] => []
  | prev, d :: rest => addFrame d prev :: sumAfter (addFrame d prev) rest

/-- delta_decode_seq of R174: frame 0 passes through. -/
def deltaDecodeSeq : List Frame → List Frame
  | [] => []
  | f :: fs => f :: sumAfter f fs

/-- compute_DELTA_ENC of R173. -/
def computeDeltaEnc (o : Operands) (m : Memory) : Run :=
  let f := o.frameLen.toNat
  sequenceRun o f (deltaEncodeSeq (framesOf o m f)).flatten (o.frameCount f * f)

/-- compute_DELTA_DEC of R175. -/
def computeDeltaDec (o : Operands) (m : Memory) : Run :=
  let f := o.frameLen.toNat
  sequenceRun o f (deltaDecodeSeq (framesOf o m f)).flatten (o.frameCount f * f)

/-! ## Run-length code -/

/-- The pairs of a byte list after a run of `c` copies of `v` that is still open (the loop of R181). -/
def rleRun (v : Byte) (c : Nat) : List Byte → List Byte
  | [] => [BitVec.ofNat 8 c, v]
  | x :: xs => if x = v ∧ c < 255 then rleRun v (c + 1) xs else BitVec.ofNat 8 c :: v :: rleRun x 1 xs

/-- rle_encode of R181. -/
def rleEncode : List Byte → List Byte
  | [] => []
  | v :: s => rleRun v 1 s

/-- What rle_decode returns (R186): the output, or the output so far and the offset of the first zero count. -/
structure RleDecoded where
  out : List Byte
  bad : Option Nat
  deriving DecidableEq, Repr

/-- rle_decode of R186 on the pairs from offset `off` on. -/
def rleDecodeFrom (off : Nat) : List Byte → RleDecoded
  | c :: v :: t =>
    if c = 0 then { out := [], bad := some off }
    else
      { out := List.replicate c.toNat v ++ (rleDecodeFrom (off + 2) t).out
        bad := (rleDecodeFrom (off + 2) t).bad }
  | _ => { out := [], bad := none }

/-- rle_decode of R186. -/
def rleDecode (t : List Byte) : RleDecoded := rleDecodeFrom 0 t

/-- compute_RLE_ENC of R184. -/
def computeRleEnc (o : Operands) (m : Memory) : Run :=
  let out := rleEncode (m.readBytes o.srcAddr.toNat o.srcLen.toNat)
  { out := out, readLen := o.srcLen.toNat, frames := out.length / 2, discard := 0, payload := out.length, bad := none }

/-- compute_RLE_DEC of R188. -/
def computeRleDec (o : Operands) (m : Memory) : Run :=
  let r := rleDecode (m.readBytes o.srcAddr.toNat o.srcLen.toNat)
  { out := r.out, readLen := o.srcLen.toNat
    frames := match r.bad with
      | some off => off / 2
      | none => o.srcLen.toNat / 2
    discard := 0, payload := r.out.length, bad := r.bad }

/-! ## Delta and run-length records -/

/-- A record of R198: KIND, three zero bytes, LEN little-endian, the body. -/
def drleRecord (kind : Byte) (body : List Byte) : List Byte := [kind, 0, 0, 0] ++ leBytes 4 body.length ++ body

/-- The bodies of the records (R195, R200): frame 0 raw, each later delta frame run-length encoded. -/
def drleBodies (s : List Frame) : List (Byte × List Byte) :=
  match deltaEncodeSeq s with
  | [] => []
  | d :: ds => (0x00, d) :: ds.map fun x => (0x01, rleEncode x)

/-- The record stream (R200). -/
def drleEncode (s : List Frame) : List Byte := (drleBodies s).flatMap fun kb => drleRecord kb.1 kb.2

/-- The sum of the body lengths (R200), the source's totalSize (spec/43_pipeline.md R213). -/
def drlePayload (s : List Frame) : Nat := ((drleBodies s).map fun kb => kb.2.length).sum

/-- compute_DRLE_ENC of R200. -/
def computeDrleEnc (o : Operands) (m : Memory) : Run :=
  let f := o.frameLen.toNat
  sequenceRun o f (drleEncode (framesOf o m f)) (drlePayload (framesOf o m f))

/-! ## The commands -/

/-- DELTA_ENC (R172). -/
def execDeltaEnc (s : State) : Host.Outcome State Fault Refusal :=
  .next (s.complete (execute (geometryDelta s.latch.operands) none computeDeltaEnc s))

/-- DELTA_DEC (R176). -/
def execDeltaDec (s : State) : Host.Outcome State Fault Refusal :=
  .next (s.complete (execute (geometryDelta s.latch.operands) none computeDeltaDec s))

/-- RLE_ENC (R185): no geometry check. -/
def execRleEnc (s : State) : Host.Outcome State Fault Refusal :=
  .next (s.complete (execute none none computeRleEnc s))

/-- RLE_DEC (R191): no geometry check, and check 5. -/
def execRleDec (s : State) : Host.Outcome State Fault Refusal :=
  .next (s.complete (execute none (oddLength s.latch.operands) computeRleDec s))

/-- DRLE_ENC (R199). -/
def execDrleEnc (s : State) : Host.Outcome State Fault Refusal :=
  .next (s.complete (execute (geometryDelta s.latch.operands) none computeDrleEnc s))

end Sys2Proof.Machine
end

