-- ==== Sys2Proof/Machine/Dispatch.lean ====
section
/-! DEFINITION. exec: the completion step of each command of the opcode table, one arm per constructor
(spec/30_encoding.md R91). -/
namespace Sys2Proof.Machine

def exec (i : Instr) (s : State) : Host.Outcome State Fault Refusal :=
  match i with
  | .cscEnc => Sys2Proof.Machine.execCscEnc s
  | .cscDec => Sys2Proof.Machine.execCscDec s
  | .deltaEnc => Sys2Proof.Machine.execDeltaEnc s
  | .deltaDec => Sys2Proof.Machine.execDeltaDec s
  | .rleEnc => Sys2Proof.Machine.execRleEnc s
  | .rleDec => Sys2Proof.Machine.execRleDec s
  | .drleEnc => Sys2Proof.Machine.execDrleEnc s

end Sys2Proof.Machine
end

