-- ==== Sys2Proof/Machine/Registers.lean ====
section
/-! DEFINITION. The register window (spec/10_state.md R23): its names and offsets, what a host read returns and what a
host write does, in any phase (spec/40_command_execution.md R127). -/
namespace Sys2Proof.Machine

/-- The registers of R23. -/
inductive RegName where
  | id | ctrl | cmd | status | irqEn | irqStatus | caps
  | srcAddr | srcLen | dstAddr | dstCap | width | height | frameLen
  | resLen | resFrames | resDiscard | resPayload | errInfo
  deriving DecidableEq, Repr

/-- The offset of a register (R23). -/
def RegName.offset : RegName → Nat
  | .id         => 0x00
  | .ctrl       => 0x04
  | .cmd        => 0x08
  | .status     => 0x0C
  | .irqEn      => 0x10
  | .irqStatus  => 0x14
  | .caps       => 0x18
  | .srcAddr    => 0x20
  | .srcLen     => 0x24
  | .dstAddr    => 0x28
  | .dstCap     => 0x2C
  | .width      => 0x30
  | .height     => 0x34
  | .frameLen   => 0x38
  | .resLen     => 0x40
  | .resFrames  => 0x44
  | .resDiscard => 0x48
  | .resPayload => 0x4C
  | .errInfo    => 0x50

/-- The register at an offset of the window; the other offsets are reserved (R23, R40). -/
def regAt (off : Nat) : Option RegName :=
  match off with
  | 0x00 => some .id
  | 0x04 => some .ctrl
  | 0x08 => some .cmd
  | 0x0C => some .status
  | 0x10 => some .irqEn
  | 0x14 => some .irqStatus
  | 0x18 => some .caps
  | 0x20 => some .srcAddr
  | 0x24 => some .srcLen
  | 0x28 => some .dstAddr
  | 0x2C => some .dstCap
  | 0x30 => some .width
  | 0x34 => some .height
  | 0x38 => some .frameLen
  | 0x40 => some .resLen
  | 0x44 => some .resFrames
  | 0x48 => some .resDiscard
  | 0x4C => some .resPayload
  | 0x50 => some .errInfo
  | _ => none

/-- The word CAPS reads (R30): MAX_DIM in bits 15:0, zero above. -/
def capsWord (p : Config.Platform) : Word := (BitVec.ofNat 16 p.maxDim).setWidth 32

/-- The word a read of a register returns (R24 to R35). No read has a side effect (R74). -/
def State.readReg (s : State) : RegName → Word
  | .id         => Config.idValue
  | .ctrl       => 0
  | .cmd        => s.cmd
  | .status     => s.statusWord
  | .irqEn      => s.irqEn.setWidth 32
  | .irqStatus  => s.irqStatus.setWidth 32
  | .caps       => capsWord s.plat
  | .srcAddr    => s.operands.srcAddr
  | .srcLen     => s.operands.srcLen
  | .dstAddr    => s.operands.dstAddr
  | .dstCap     => s.operands.dstCap
  | .width      => s.operands.width
  | .height     => s.operands.height
  | .frameLen   => s.operands.frameLen
  | .resLen     => s.results.len
  | .resFrames  => s.results.frames
  | .resDiscard => s.results.discard
  | .resPayload => s.results.payload
  | .errInfo    => s.results.errInfo

/-- A read at an offset of the window; a reserved offset reads 0 (R40). -/
def State.readOffset (s : State) (off : Nat) : Word :=
  match regAt off with
  | some r => s.readReg r
  | none => 0

/-- A write to CTRL (R25): bit 0 performs the soft reset, in any phase. -/
def State.writeCtrl (s : State) (v : Word) : State := if v.getLsbD 0 then s.resetMachine else s

/-- A write to CMD (R26): accepted when IDLE, ignored entirely when BUSY (R113). -/
def State.writeCmd (s : State) (v : Word) : State :=
  match s.phase with
  | .idle => s.accept v
  | .busy => s

/-- A write to IRQ_EN (R28): bits 1:0 are stored. -/
def State.writeIrqEn (s : State) (v : Word) : State := { s with irqEn := v.setWidth 2 }

/-- A write to IRQ_STATUS (R29): each bit written 1 is cleared. -/
def State.writeIrqStatus (s : State) (v : Word) : State := { s with irqStatus := s.irqStatus &&& ~~~(v.setWidth 2) }

/-- What a host write does to a register, in any phase (R24 to R35, R127): read-only registers ignore it. -/
def State.writeReg (s : State) (r : RegName) (v : Word) : State :=
  match r with
  | .ctrl      => s.writeCtrl v
  | .cmd       => s.writeCmd v
  | .irqEn     => s.writeIrqEn v
  | .irqStatus => s.writeIrqStatus v
  | .srcAddr   => { s with operands := { s.operands with srcAddr := v } }
  | .srcLen    => { s with operands := { s.operands with srcLen := v } }
  | .dstAddr   => { s with operands := { s.operands with dstAddr := v } }
  | .dstCap    => { s with operands := { s.operands with dstCap := v } }
  | .width     => { s with operands := { s.operands with width := v } }
  | .height    => { s with operands := { s.operands with height := v } }
  | .frameLen  => { s with operands := { s.operands with frameLen := v } }
  | .id | .status | .caps | .resLen | .resFrames | .resDiscard | .resPayload | .errInfo => s

/-- A write at an offset of the window; a write to a reserved offset is ignored (R40). -/
def State.writeOffset (s : State) (off : Nat) (v : Word) : State :=
  match regAt off with
  | some r => s.writeReg r v
  | none => s

end Sys2Proof.Machine
end

