-- ==== Sys2Proof/Machine/HostBus.lean ====
section
/-! DEFINITION. The host's bus transactions (spec/40_command_execution.md R110 (a), (b)): register accesses through the
window (spec/20_memory.md R67) and memory accesses, with the races of R68. -/
namespace Sys2Proof.Machine

/-- Where an access of `n` bytes at `a` goes. -/
inductive Route where
  /-- An aligned 32-bit access to the window, at this offset. -/
  | register (off : Nat)
  /-- Memory, every byte of it answered by the bus. -/
  | memory
  /-- An access past the end of the address space. -/
  | outside
  /-- An access to the window in any other form (R67). -/
  | badForm
  /-- A memory access that the bus does not answer. -/
  | unanswered
  deriving DecidableEq, Repr

/-- The route of a host access of `n` bytes at `a`. Some byte of it in the window makes it a register access, which
must be 32 bits at a multiple of 4 (R67). DESIGN CHOICE (log entry 31, safe): the end of the address space is tested
before the window, and the window before the answer of the bus, so an access that touches the window and also runs past
2^32 - 1 is a fault, and one that touches the window and also memory that does not answer is refused as R67's. -/
def route (p : Config.Platform) (a n : Nat) : Route :=
  if a + n > 2 ^ 32 then .outside
  else if a < p.regBase.toNat + 256 ∧ p.regBase.toNat < a + n then
    if n = 4 ∧ p.regBase.toNat ≤ a ∧ (a - p.regBase.toNat) % 4 = 0 then .register (a - p.regBase.toNat)
    else .badForm
  else if (List.range' a n).all (memResponds p) then .memory
  else .unanswered

/-- The byte a host reads from memory (R68): any value in the write region of a running command, the current byte
elsewhere. DESIGN CHOICE (log entry 28, safe): a byte in both regions of a command whose regions overlap, where (b) says
any value and (c) the current one, is any value. -/
def State.hostByte (s : State) (a : Nat) : Byte :=
  if s.busy && s.latch.operands.inWriteRegion a then Config.freeByte s.draws a else s.mem.read a

/-- Some byte of `[a, a + n)` lies in the write region of the running command (R66). -/
def State.touchesWriteRegion (s : State) (a n : Nat) : Bool :=
  s.busy && (List.range' a n).any s.latch.operands.inWriteRegion

/-- A host memory read (R68 (b), (c), (d)). DEDUCED (log entry 30, safe): a read of the write region of a running command
sets RACE, because R251 makes the destination bytes and the result of the command any value after it. -/
def State.hostMemRead (s : State) (a n : Nat) : State :=
  { s with
    race := s.race || s.touchesWriteRegion a n
    busData := (List.range n).map fun i => s.hostByte (a + i)
    draws := if s.busy then s.draws + 1 else s.draws }

/-- The byte a host write leaves at `a` (R68 (a)): any value in the write region of a running command, the byte
written elsewhere. -/
def State.storedByte (s : State) (a : Nat) (b : Byte) : Byte :=
  if s.busy && s.latch.operands.inWriteRegion a then Config.freeByte s.draws a else b

/-- The bytes a host write of `data` at `a` leaves. -/
def State.storedBytes (s : State) : Nat → List Byte → List Byte
  | _, [] => []
  | a, b :: bs => s.storedByte a b :: State.storedBytes s (a + 1) bs

/-- Some byte of `[a, a + n)` lies in the footprint of the running command (R66, R68 (a)). -/
def State.touchesFootprint (s : State) (a n : Nat) : Bool :=
  s.busy && (List.range' a n).any s.latch.operands.inFootprint

/-- A host memory write (R68 (a), (d)): it sets RACE if it touches the footprint of a running command. -/
def State.hostMemWrite (s : State) (a : Nat) (data : List Byte) : State :=
  { s with
    mem := s.mem.writeBytes a (s.storedBytes a data)
    race := s.race || s.touchesFootprint a data.length
    draws := if s.busy then s.draws + 1 else s.draws }

/-- A host read turn: a register's word comes back in four byte lanes, bits 7:0 in the lowest (R64). -/
def State.hostRead (s : State) (addr : Word) (n : Nat) : Host.Outcome State Fault Refusal :=
  match route s.plat addr.toNat n with
  | .register off => .next { s with busData := leBytes 4 (s.readOffset off).toNat }
  | .memory => .next (s.hostMemRead addr.toNat n)
  | .outside => .fault .addressOutsideSpace
  | .badForm => .refused .registerAccessForm
  | .unanswered => .refused .hostAccessUnanswered

/-- A host write turn: the four byte lanes of a register write are its word, bits 7:0 in the lowest (R64). -/
def State.hostWrite (s : State) (addr : Word) (data : List Byte) : Host.Outcome State Fault Refusal :=
  match route s.plat addr.toNat data.length with
  | .register off => .next (s.writeOffset off (BitVec.ofNat 32 (leValue data)))
  | .memory => .next (s.hostMemWrite addr.toNat data)
  | .outside => .fault .addressOutsideSpace
  | .badForm => .refused .registerAccessForm
  | .unanswered => .refused .hostAccessUnanswered

end Sys2Proof.Machine
end

