-- ==== Sys2Proof/Machine/Step.lean ====
section
/-! DEFINITION. One step of the system (spec/40_command_execution.md R110): the first turn of the agenda, or, when none
is waiting, the engine's. -/
namespace Sys2Proof.Machine

/-- The engine's turn (R110 (c), R112): the completion step, enabled exactly when the phase is BUSY. It decodes the
latched word; an illegal one completes with ERR_BAD_CMD (R92). In IDLE nothing is enabled and the state stays. -/
def engineTurn (s : State) : Host.Outcome State Fault Refusal :=
  match s.phase with
  | .idle => .next s
  | .busy =>
    match decode s.latch.cmd with
    | .ok i => exec i s
    | .error _ => .next s.completeBadCommand

/-- One turn (R110). -/
def takeTurn (t : Turn) (s : State) : Host.Outcome State Fault Refusal :=
  match t with
  | .hostRead addr n => s.hostRead addr n
  | .hostWrite addr data => s.hostWrite addr data
  | .hardReset => .next s.resetMachine
  | .completion => engineTurn s

/-- One step: the agenda's first turn, taken off it; with an empty agenda the engine's turn (log entries 1 and 2). -/
def step (s : State) : Host.Outcome State Fault Refusal :=
  match s.agenda with
  | [] => engineTurn s
  | t :: ts => takeTurn t { s with agenda := ts }

/-- `s` with the opcode-table word `w` of `nbits` bits accepted, and the engine's turn next. VEC fetches nothing (R22,
R78): a command comes to run when a host writes its word to CMD, so this is the accept step (R111), and, if turns are
waiting, a completion turn before them (log entry 3). -/
def State.withFetchWord (s : State) (nbits w : Nat) : State :=
  { s.accept (BitVec.ofNat 32 (w % 2 ^ nbits)) with
    agenda := match s.agenda with
      | [] => []
      | t :: ts => .completion :: t :: ts }

end Sys2Proof.Machine
end

