-- ==== Sys2Proof/Machine/Script.lean ====
section
/-! DEFINITION. The host script statements and pseudo-instructions (spec/30_encoding.md R96, R97) as the turns they
expand to. -/
namespace Sys2Proof.Machine

/-- The 32-bit write of `v` at offset `off` of the window (R96, R20). -/
def writeTurn (p : Config.Platform) (off : Nat) (v : Word) : Turn :=
  .hostWrite (p.regBase + BitVec.ofNat 32 off) (leBytes 4 v.toNat)

/-- The 32-bit read at offset `off` of the window (R96, R20). -/
def readTurn (p : Config.Platform) (off : Nat) : Turn := .hostRead (p.regBase + BitVec.ofNat 32 off) 4

/-- The statements of R96; a register is given by its offset, which may be a reserved one. WAIT repeats a read of STATUS
until BUSY reads 0; how often is not determined (R112), so the number of reads before the engine completes is an argument
(log entry 22). -/
inductive Stmt where
  | wr (off : Nat) (v : Word)
  | rd (off : Nat)
  | wait (polls : Nat)
  deriving DecidableEq, Repr

/-- The turns of a statement (R96). DESIGN CHOICE (log entry 22): a command completes inside WAIT, before its last read
of STATUS. When it completes among the statements before is open (R110, R112); such an order is another agenda, with the
completion turn placed there. -/
def Stmt.turns (p : Config.Platform) : Stmt → List Turn
  | .wr off v => [writeTurn p off v]
  | .rd off => [readTurn p off]
  | .wait n => List.replicate n (readTurn p RegName.status.offset) ++ [.completion, readTurn p RegName.status.offset]

/-- The turns of a script (R96), in the order that log entry 22 names; other orders are other agendas. -/
def scriptTurns (p : Config.Platform) (ss : List Stmt) : List Turn := ss.flatMap (Stmt.turns p)

/-- `MEM a: bs` (R96): no transaction; the start contents of memory. -/
def State.memDirective (s : State) (a : Nat) (bs : List Byte) : State := { s with mem := s.mem.writeBytes a bs }

/-- `SRC a, n` (R97). -/
def Stmt.src (a n : Word) : List Stmt := [.wr RegName.srcAddr.offset a, .wr RegName.srcLen.offset n]

/-- `DST a, n` (R97). -/
def Stmt.dst (a n : Word) : List Stmt := [.wr RegName.dstAddr.offset a, .wr RegName.dstCap.offset n]

/-- `GEOM w, h` (R97). -/
def Stmt.geom (w h : Word) : List Stmt := [.wr RegName.width.offset w, .wr RegName.height.offset h]

/-- `FLEN n` (R97). -/
def Stmt.flen (n : Word) : List Stmt := [.wr RegName.frameLen.offset n]

/-- `CMD mnemonic` (R97). -/
def Stmt.cmd (i : Instr) : List Stmt := [.wr RegName.cmd.offset (encode i)]

/-- `RUN mnemonic` (R97). -/
def Stmt.run (i : Instr) (polls : Nat) : List Stmt := [.wr RegName.cmd.offset (encode i), .wait polls]

/-- `ACK` (R97). -/
def Stmt.ack : List Stmt := [.wr RegName.irqStatus.offset 0x3]

/-- `SRESET` (R97). -/
def Stmt.sreset : List Stmt := [.wr RegName.ctrl.offset 0x1]

end Sys2Proof.Machine
end

