-- ==== Sys2Proof/Safety.lean ====
section
/-! DEFINITION. The terms that statements are written in: the invariant of the system, the conditions under which a
command runs normally, and the three ways a completion can leave the state. -/
namespace Sys2Proof.Machine

/-! ## Outcomes and invariant -/

/-- The next state of an outcome, if it is one. -/
def nextState? : Host.Outcome State Fault Refusal → Option State
  | .next t => some t
  | .fault _ => none
  | .refused _ => none

/-- What holds at reset and after every step: memory is canonical, the parameters are legal (spec/00_scope.md R7), a
running command shows cleared flags and results (spec/10_state.md R27, R35) and was latched from CMD (R36), ERROR and
ERRCODE agree, an error is a completion, and the codes 8 to 15 are never produced (spec/60_exceptions.md R222). -/
abbrev State.Inv (s : State) : Prop :=
  s.mem.wf ∧ s.plat.wf = true
    ∧ (s.phase = .busy → s.done = false ∧ s.error = false ∧ s.errcode = 0 ∧ s.results = Results.reset
        ∧ s.latch.cmd = s.cmd)
    ∧ s.error = (s.errcode != 0) ∧ s.errcode.toNat ≤ 7 ∧ (s.error = true → s.done = true)

/-- A host program has ended (spec/40_command_execution.md R129): no turn is waiting and the phase is IDLE. -/
abbrev State.ended (s : State) : Prop := s.agenda = [] ∧ s.phase = .idle

/-! ## When a command runs normally -/

/-- A legal CSC dimension (R116). -/
abbrev DimLegal (p : Config.Platform) (d : Word) : Prop := d.toNat % 2 = 0 ∧ 2 ≤ d.toNat ∧ d.toNat ≤ p.maxDim

/-- Check 2 of a command passes (R116). -/
abbrev GeometryPasses (i : Instr) (s : State) : Prop :=
  match i with
  | .cscEnc | .cscDec => DimLegal s.plat s.latch.operands.width ∧ DimLegal s.plat s.latch.operands.height
  | .deltaEnc | .deltaDec | .drleEnc => s.latch.operands.frameLen ≠ 0
  | .rleEnc | .rleDec => True

/-- Check 3 passes: neither region ends above 2^32 (R118). -/
abbrev RangePasses (o : Operands) : Prop :=
  o.srcAddr.toNat + o.srcLen.toNat ≤ 2 ^ 32 ∧ o.dstAddr.toNat + o.dstCap.toNat ≤ 2 ^ 32

/-- Check 4 passes: one region is empty or they are disjoint (R119). -/
abbrev DisjointRegions (o : Operands) : Prop :=
  o.srcLen.toNat = 0 ∨ o.dstCap.toNat = 0 ∨ o.dstAddr.toNat + o.dstCap.toNat ≤ o.srcAddr.toNat
    ∨ o.srcAddr.toNat + o.srcLen.toNat ≤ o.dstAddr.toNat

/-- Check 5 of a command passes: an RLE_DEC source of even length (R120). -/
abbrev LengthPasses (i : Instr) (s : State) : Prop :=
  match i with
  | .rleDec => s.latch.operands.srcLen.toNat % 2 = 0
  | _ => True

/-- Every precheck of a command passes (R114). -/
abbrev PrechecksPass (i : Instr) (s : State) : Prop :=
  GeometryPasses i s ∧ RangePasses s.latch.operands ∧ DisjointRegions s.latch.operands ∧ LengthPasses i s

/-- Every engine access to the `n` bytes from `a` on is answered (R73). -/
abbrev Answered (p : Config.Platform) (a n : Nat) : Prop := ∀ k, k < n → engineAnswered p (a + k) = true

/-- The record a command's computation returns (R121). -/
def runOf (i : Instr) : Operands → Memory → Run :=
  match i with
  | .cscEnc => computeCscEnc
  | .cscDec => computeCscDec
  | .deltaEnc => computeDeltaEnc
  | .deltaDec => computeDeltaDec
  | .rleEnc => computeRleEnc
  | .rleDec => computeRleDec
  | .drleEnc => computeDrleEnc

/-- Check 2 of a command (R116). -/
def geometryOf (i : Instr) (s : State) : Option Nat :=
  match i with
  | .cscEnc | .cscDec => geometryCsc s.plat s.latch.operands
  | .deltaEnc | .deltaDec | .drleEnc => geometryDelta s.latch.operands
  | .rleEnc | .rleDec => none

/-- Check 5 of a command (R120). -/
def lastCheckOf (i : Instr) (s : State) : Option CmdError :=
  match i with
  | .rleDec => oddLength s.latch.operands
  | .cscEnc | .cscDec | .deltaEnc | .deltaDec | .rleEnc | .drleEnc => none

/-- The outcome of a command's run in a state (R114). -/
def verdictOf (i : Instr) (s : State) : Verdict := execute (geometryOf i s) (lastCheckOf i s) (runOf i) s

/-- The `n` bytes a state's memory holds from `a` on. -/
def State.bytesAt (s : State) (a n : Nat) : List Byte := (List.range n).map fun k => s.byteAt (a + k)

/-- Frame `i` of the latched source region, for frames of `fin` bytes (spec/43_pipeline.md R211). -/
def State.sourceFrame (s : State) (fin i : Nat) : List Byte :=
  s.bytesAt (s.latch.operands.srcAddr.toNat + i * fin) fin

/-- The whole frames of the latched source region (R211). -/
def State.sourceFrames (s : State) (fin : Nat) : List (List Byte) :=
  (List.range (s.latch.operands.srcLen.toNat / fin)).map fun i => s.sourceFrame fin i

/-- The latched source region as one buffer (R210). -/
def State.sourceBytes (s : State) : List Byte :=
  s.bytesAt s.latch.operands.srcAddr.toNat s.latch.operands.srcLen.toNat

/-! ## The three ways a completion leaves the state -/

/-- Success (R124, R126) with output `out` and the three counts: the output stands from DST_ADDR on, every other byte
reads as before, and of the rest only the results, the flags and the phase have changed. That the latch and RACE stay is
log entries 8 and 9. -/
def SucceedsWith (s t : State) (out : List Byte) (frames discard payload : Nat) : Prop :=
  (∀ k, k < out.length → t.byteAt (s.latch.operands.dstAddr.toNat + k) = out.getD k 0)
  ∧ (∀ a, a < s.latch.operands.dstAddr.toNat ∨ s.latch.operands.dstAddr.toNat + out.length ≤ a →
      t.byteAt a = s.byteAt a)
  ∧ t = { s with
      mem := t.mem
      results :=
        { len := BitVec.ofNat 32 out.length, frames := BitVec.ofNat 32 frames
          discard := BitVec.ofNat 32 discard, payload := BitVec.ofNat 32 payload, errInfo := 0 }
      done := true, error := false, errcode := 0, phase := .idle, irqStatus := s.irqStatus ||| 0b01 }

/-- A precheck error (R123, R126): memory and RES_* stay, ERR_INFO and the flags report the error. That the latch and RACE
stay is log entries 8 and 9. -/
def RejectedWith (s t : State) (code : BitVec 4) (info : Word) : Prop :=
  t = { s with
    results := { s.results with errInfo := info }
    done := true, error := true, errcode := code, phase := .idle, irqStatus := s.irqStatus ||| 0b11 }

/-- An execution error (R125, R126): every byte outside the write region reads as before, ERR_INFO and the flags report
the error, RES_* and the write region are open. That the latch and RACE stay is log entries 8 and 9. -/
def SpoiledWith (s t : State) (code : BitVec 4) (info : Word) : Prop :=
  (∀ a, s.latch.operands.inWriteRegion a = false → t.byteAt a = s.byteAt a)
  ∧ t = { s with
      mem := t.mem
      results := { t.results with errInfo := info }
      done := true, error := true, errcode := code, phase := .idle, irqStatus := s.irqStatus ||| 0b11
      draws := t.draws }

/-! ## Exact rationals (spec/00_scope.md R10) -/

/-- trunc(x): toward zero. -/
def truncRat (x : ℚ) : ℤ := if 0 ≤ x then ⌊x⌋ else ⌈x⌉

/-- u8(x) = trunc(x) mod 256. -/
def u8Rat (x : ℚ) : ℤ := truncRat x % 256

/-- clamp(x, lo, hi). -/
def clampRat (x lo hi : ℚ) : ℚ := if x < lo then lo else if hi < x then hi else x

/-! ## The host's staged decode (spec/43_pipeline.md R215) -/

/-- The slots of a record stream, one per record: the body of a RAW record, the expansion of an RLE record. `fuel`
bounds the number of records. DESIGN CHOICE (log entry 29): on a stream that DRLE_ENC did not write, where R215 says only
that the steps may fail, a malformed body gives its expansion up to the zero count, a stream that ends inside a record
gives what there is of it, and no slot length is checked. -/
def unpackRecords : Nat → List Byte → Option (List (List Byte))
  | _, [] => some []
  | 0, _ :: _ => none
  | fuel + 1, b :: bs =>
    let len := leValue (((b :: bs).drop 4).take 4)
    let body := ((b :: bs).drop 8).take len
    let slot := if b = 0 then body else (rleDecode body).out
    (unpackRecords fuel ((b :: bs).drop (8 + len))).map fun rest => slot :: rest

end Sys2Proof.Machine
end

