-- ==== Sys2Proof/Certificates/Slice0/Obligations.lean ====
section
/-! DEFINITION. The statements for the provers. Each docstring names the rule of spec/ it formalises. -/
open Sys2Proof Sys2Proof.Machine

/-! ## Encoding (spec/30_encoding.md) -/

/-- R95: decode on every word. The seven words are the whole map; every other word is BAD. -/
def Obligations.DecodeFollowsOpcodeMap : Prop :=
  ∀ w : Word,
    (w = 0x00000001 → decode w = .ok .cscEnc) ∧ (w = 0x00000002 → decode w = .ok .cscDec)
    ∧ (w = 0x00000003 → decode w = .ok .deltaEnc) ∧ (w = 0x00000004 → decode w = .ok .deltaDec)
    ∧ (w = 0x00000005 → decode w = .ok .rleEnc) ∧ (w = 0x00000006 → decode w = .ok .rleDec)
    ∧ (w = 0x00000007 → decode w = .ok .drleEnc)
    ∧ (w.extractLsb' 8 24 ≠ 0 ∨ w.extractLsb' 0 8 = 0 ∨ 8 ≤ (w.extractLsb' 0 8).toNat →
        ∃ e, decode w = .error e)

/-- Decode and encode agree for every command, through the four byte lanes too, and no other word decodes to it. -/
def Obligations.DecodeEncodeAgree : Prop :=
  (∀ (i : Instr) (rest : List Byte), i.wf = true →
      decode (encode i) = .ok i ∧ decodeBytes (leBytes 4 (encode i).toNat ++ rest) = .ok (i, rest))
  ∧ ∀ (w : Word) (i : Instr), decode w = .ok i → w = encode i

/-- Three words written out from R90 and R91 decode to their commands, one with RSVD set does not. -/
def Obligations.WrittenWordsDecode : Prop :=
  decode 0b00000000000000000000000000000001 = .ok .cscEnc
  ∧ decode 0b00000000000000000000000000000100 = .ok .deltaDec
  ∧ decode 0b00000000000000000000000000000111 = .ok .drleEnc
  ∧ decode 0b10000000000000000000000000000001 = .error .reservedBits

/-! ## Host register accesses (spec/10_state.md) -/

/-- R27, field by field, of the word a host reads at the offset of STATUS. -/
def Obligations.StatusWordFields : Prop :=
  ∀ (s : State) (w : Word), w = s.readOffset 0x0C →
    (w.getLsbD 0 = true ↔ s.phase = .busy)
    ∧ w.getLsbD 1 = s.done ∧ w.getLsbD 2 = s.error ∧ w.getLsbD 3 = false
    ∧ w.extractLsb' 4 4 = s.errcode ∧ w.extractLsb' 8 24 = 0

/-- A register read completes in any phase and changes nothing but what the host gets back: the four lanes of the
register's word, 0 at a reserved offset. The word at each result offset is its result register (R23, R35). -/
def Obligations.RegisterReadHasNoSideEffect : Prop :=
  (∀ (s : State) (off : Nat), s.plat.regBaseLegal = true → off % 4 = 0 → off < 256 →
    ∃ lanes : List Byte,
      takeTurn (readTurn s.plat off) s = .next { s with busData := lanes } ∧ lanes.length = 4
      ∧ leValue lanes = (s.readOffset off).toNat
      ∧ (off = 0x1C ∨ off = 0x3C ∨ 0x54 ≤ off → leValue lanes = 0))
  ∧ ∀ s : State,
      s.readOffset 0x40 = s.results.len ∧ s.readOffset 0x44 = s.results.frames
      ∧ s.readOffset 0x48 = s.results.discard ∧ s.readOffset 0x4C = s.results.payload
      ∧ s.readOffset 0x50 = s.results.errInfo

/-- R24 and R30: ID reads its constant and CAPS reads MAX_DIM in every state, so no reset and no write changes them;
and writes to any read-only register or reserved offset are ignored entirely. -/
def Obligations.ReadOnlyRegisters : Prop :=
  (∀ s : State, s.plat.maxDimLegal = true →
    s.readOffset 0x00 = 0x56454331
    ∧ ((s.readOffset 0x18).extractLsb' 0 16).toNat = s.plat.maxDim ∧ (s.readOffset 0x18).extractLsb' 16 16 = 0)
  ∧ ∀ (s : State) (off : Nat) (v : Word), s.plat.regBaseLegal = true → off % 4 = 0 → off < 256 →
      (off = 0x00 ∨ off = 0x0C ∨ off = 0x18 ∨ off = 0x1C ∨ 0x3C ≤ off) →
      takeTurn (writeTurn s.plat off v) s = .next s

/-- R28: a write to IRQ_EN stores bits 1:0 in any phase, each enabling its source on the line; the rest is ignored and
reads 0. -/
def Obligations.IrqEnableWrite : Prop :=
  ∀ (s : State) (v : Word), s.plat.regBaseLegal = true →
    ∃ t, takeTurn (writeTurn s.plat 0x10 v) s = .next t
      ∧ t.irqEn.getLsbD 0 = v.getLsbD 0 ∧ t.irqEn.getLsbD 1 = v.getLsbD 1
      ∧ t.readOffset 0x10 = v &&& 0x3 ∧ t = { s with irqEn := t.irqEn }
      ∧ (t.irq = true ↔
          (v.getLsbD 0 = true ∧ s.irqStatus.getLsbD 0 = true) ∨ (v.getLsbD 1 = true ∧ s.irqStatus.getLsbD 1 = true))

/-- R29: IRQ_STATUS reads its two pending bits, and a write to it clears exactly the bits written 1; every completion
sets DONE_IP, and ERR_IP exactly with an error, whatever IRQ_EN holds. -/
def Obligations.IrqStatusWriteOneToClear : Prop :=
  (∀ (s : State) (v : Word), s.plat.regBaseLegal = true →
    ∃ t, takeTurn (writeTurn s.plat 0x14 v) s = .next t ∧ t = { s with irqStatus := t.irqStatus }
      ∧ (∀ i, i < 2 → t.irqStatus.getLsbD i = (s.irqStatus.getLsbD i && !v.getLsbD i))
      ∧ (t.readOffset 0x14).extractLsb' 0 2 = t.irqStatus ∧ (t.readOffset 0x14).extractLsb' 2 30 = 0)
  ∧ ∀ s : State, s.phase = .busy →
      ∃ t, engineTurn s = .next t ∧ t.irqStatus.getLsbD 0 = true
        ∧ t.irqStatus.getLsbD 1 = (s.irqStatus.getLsbD 1 || t.errcode != 0)

/-- R39: the line is high exactly while some pending bit is enabled, and low after reset. -/
def Obligations.IrqLineLevel : Prop :=
  (∀ s : State, s.irq = true ↔
    (s.irqStatus.getLsbD 0 = true ∧ s.irqEn.getLsbD 0 = true)
    ∨ (s.irqStatus.getLsbD 1 = true ∧ s.irqEn.getLsbD 1 = true))
  ∧ ∀ s : State, s.resetMachine.irq = false

/-- R36 with R23 and R31 to R34: an operand register takes any word in any phase and reads it back; which operand each
offset is; the latch and everything else stay. -/
def Obligations.OperandWriteKeepsLatch : Prop :=
  ∀ (s : State) (off : Nat) (v : Word),
    s.plat.regBaseLegal = true → off % 4 = 0 → 0x20 ≤ off → off ≤ 0x38 →
    ∃ t, takeTurn (writeTurn s.plat off v) s = .next t ∧ t.readOffset off = v
      ∧ t = { s with operands := t.operands }
      ∧ (off = 0x20 → t.operands = { s.operands with srcAddr := v })
      ∧ (off = 0x24 → t.operands = { s.operands with srcLen := v })
      ∧ (off = 0x28 → t.operands = { s.operands with dstAddr := v })
      ∧ (off = 0x2C → t.operands = { s.operands with dstCap := v })
      ∧ (off = 0x30 → t.operands = { s.operands with width := v })
      ∧ (off = 0x34 → t.operands = { s.operands with height := v })
      ∧ (off = 0x38 → t.operands = { s.operands with frameLen := v })
      ∧ ∀ off', off' ≠ off → t.readOffset off' = s.readOffset off'

/-- R25: bit 0 of a CTRL write performs the soft reset, in any phase, and the other bits do nothing; CTRL reads 0. -/
def Obligations.CtrlWriteSoftReset : Prop :=
  ∀ (s : State) (v : Word), s.plat.regBaseLegal = true →
    (v.getLsbD 0 = true → takeTurn (writeTurn s.plat 0x04 v) s = takeTurn .hardReset s)
    ∧ (v.getLsbD 0 = false → takeTurn (writeTurn s.plat 0x04 v) s = .next s)
    ∧ s.readOffset 0x04 = 0

/-- An access to the window that is not an aligned 32-bit access is refused, a read and a write alike (R67). That an
access lying only partly inside the window is one of these is the model's reading, log entry 17. -/
def Obligations.UnalignedRegisterAccessRefused : Prop :=
  ∀ (s : State) (a : Word) (n : Nat) (data : List Byte),
    s.plat.regBaseLegal = true → a.toNat + n ≤ 2 ^ 32 →
    (∃ k, k < n ∧ inWindow s.plat (a.toNat + k) = true) → n ≠ 4 ∨ a.toNat % 4 ≠ 0 → data.length = n →
    takeTurn (.hostRead a n) s = .refused .registerAccessForm
    ∧ takeTurn (.hostWrite a data) s = .refused .registerAccessForm

/-! ## Acceptance, engine turns and reset -/

/-- R26, R111 and R113: a CMD write while IDLE is the accept step, one while BUSY is ignored entirely, and a read of CMD
returns the stored word. -/
def Obligations.CmdWriteAcceptsWhenIdle : Prop :=
  ∀ (s : State) (w : Word), s.plat.regBaseLegal = true →
    (s.phase = .idle →
      takeTurn (writeTurn s.plat 0x08 w) s = .next { s with
        cmd := w, latch := { cmd := w, operands := s.operands }, race := false, phase := .busy
        done := false, error := false, errcode := 0
        results := { len := 0, frames := 0, discard := 0, payload := 0, errInfo := 0 } })
    ∧ (s.phase = .busy → takeTurn (writeTurn s.plat 0x08 w) s = .next s)
    ∧ s.readOffset 0x08 = s.cmd

/-- A step takes the agenda's first turn off it and takes that turn. When the engine has the turn (a completion turn, or
none waiting) and the phase is BUSY, the step is exec of the command the latched word decodes to; in IDLE the engine's
turn changes nothing. The agenda is the model's (log entries 1 and 2). -/
def Obligations.StepRunsDecodedCommand : Prop :=
  ∀ (s : State) (i : Instr),
    (s.phase = .busy → decode s.latch.cmd = .ok i → s.agenda = [] → step s = exec i s)
    ∧ (∀ rest, s.phase = .busy → decode s.latch.cmd = .ok i → s.agenda = .completion :: rest →
        step s = exec i { s with agenda := rest })
    ∧ (s.phase = .idle → s.agenda = [] → step s = .next s)
    ∧ (s.phase = .idle → takeTurn .completion s = .next s)
    ∧ ∀ t rest, s.agenda = t :: rest → step s = takeTurn t { s with agenda := rest }

/-- R240: reset in any state leaves every register at its reset value (so no completion is recorded and no pending bit
set), the phase IDLE and RACE false, and memory as it was but for the write region of a running command. -/
def Obligations.HardResetClearsRegisters : Prop :=
  ∀ s : State, ∃ t, takeTurn .hardReset s = .next t
      ∧ (∀ off, t.readOffset off = if off = 0x00 then 0x56454331 else if off = 0x18 then capsWord s.plat else 0)
      ∧ t.phase = .idle ∧ t.race = false ∧ t.plat = s.plat
      ∧ (s.phase = .idle → t.mem = s.mem)
      ∧ (∀ a, s.latch.operands.inWriteRegion a = false → t.byteAt a = s.byteAt a)

/-- R41 of the state after power-up. -/
def Obligations.ResetStateRegisters : Prop :=
  (∀ off, State.reset.readOffset off = if off = 0x00 then 0x56454331 else if off = 0x18 then 4096 else 0)
  ∧ State.reset.phase = .idle ∧ State.reset.race = false ∧ State.reset.irq = false

/-- The run of an illegal word (R92, R115): accepted like any other, it completes with ERR_BAD_CMD whatever the operands
hold; memory stays. Under a race it completes too, with some code in 0 .. 7 and every byte outside the write region as it
was (R126). That the latch and RACE stay is the model's choice, log entries 8 and 9. -/
def Obligations.IllegalWordCompletesWithBadCmd : Prop :=
  ∀ s : State, s.phase = .busy →
    (s.latch.cmd.extractLsb' 8 24 ≠ 0 ∨ s.latch.cmd.extractLsb' 0 8 = 0 ∨ 8 ≤ (s.latch.cmd.extractLsb' 0 8).toNat) →
    (s.race = false → ∃ t, engineTurn s = .next t ∧ RejectedWith s t 1 s.latch.cmd)
    ∧ (s.race = true → ∃ t, engineTurn s = .next t ∧ t.phase = .idle ∧ t.done = true ∧ t.errcode.toNat ≤ 7
        ∧ t.error = (t.errcode != 0)
        ∧ ∀ a, s.latch.operands.inWriteRegion a = false → t.byteAt a = s.byteAt a)

/-- R112, in the model's schedule (log entry 2): a BUSY engine left alone completes in one step. -/
def Obligations.BusyEngineCompletes : Prop :=
  ∀ s : State, s.phase = .busy → s.agenda = [] → ∃ t, step s = .next t ∧ t.phase = .idle ∧ t.done = true

/-! ## Prechecks (spec/40_command_execution.md R116 to R120, R123) -/

/-- Without a race: the geometry errors with their ERR_INFO; no ERR_GEOMETRY when the check passes, and none from RLE_ENC
or RLE_DEC (R116). That the latch and RACE stay is the model's choice, log entries 8 and 9. -/
def Obligations.GeometryErrors : Prop :=
  ∀ s : State, s.race = false →
    (∀ i, i = .cscEnc ∨ i = .cscDec →
      (¬ DimLegal s.plat s.latch.operands.width → ∃ t, exec i s = .next t ∧ RejectedWith s t 2 1)
      ∧ (DimLegal s.plat s.latch.operands.width → ¬ DimLegal s.plat s.latch.operands.height →
          ∃ t, exec i s = .next t ∧ RejectedWith s t 2 2))
    ∧ (∀ i, i = .deltaEnc ∨ i = .deltaDec ∨ i = .drleEnc → s.latch.operands.frameLen = 0 →
        ∃ t, exec i s = .next t ∧ RejectedWith s t 2 3)
    ∧ ∀ i, GeometryPasses i s → ∃ t, exec i s = .next t ∧ t.errcode ≠ 2

/-- Without a race: the range errors of all seven commands; no ERR_RANGE when both regions end at or below 2^32 (R118).
That the latch and RACE stay is the model's choice, log entries 8 and 9. -/
def Obligations.RangeErrors : Prop :=
  ∀ (i : Instr) (s : State), s.race = false → GeometryPasses i s →
    (s.latch.operands.srcAddr.toNat + s.latch.operands.srcLen.toNat > 2 ^ 32 →
      ∃ t, exec i s = .next t ∧ RejectedWith s t 3 1)
    ∧ (s.latch.operands.srcAddr.toNat + s.latch.operands.srcLen.toNat ≤ 2 ^ 32 →
        s.latch.operands.dstAddr.toNat + s.latch.operands.dstCap.toNat > 2 ^ 32 →
        ∃ t, exec i s = .next t ∧ RejectedWith s t 3 2)
    ∧ (RangePasses s.latch.operands → ∃ t, exec i s = .next t ∧ t.errcode ≠ 3)

/-- Without a race: the overlap error of all seven commands; none when the regions do not intersect (R119). That the latch
and RACE stay is the model's choice, log entries 8 and 9. -/
def Obligations.OverlapErrors : Prop :=
  ∀ (i : Instr) (s : State), s.race = false → GeometryPasses i s → RangePasses s.latch.operands →
    (s.latch.operands.srcLen.toNat > 0 → s.latch.operands.dstCap.toNat > 0 →
      s.latch.operands.srcAddr.toNat < s.latch.operands.dstAddr.toNat + s.latch.operands.dstCap.toNat →
      s.latch.operands.dstAddr.toNat < s.latch.operands.srcAddr.toNat + s.latch.operands.srcLen.toNat →
      ∃ t, exec i s = .next t ∧ RejectedWith s t 4 0)
    ∧ (DisjointRegions s.latch.operands → ∃ t, exec i s = .next t ∧ t.errcode ≠ 4)

/-- Without a race: an odd RLE_DEC length is rejected, and no other command reports ERR_RLE_MALFORMED (R120; a raced
command may report any code, R126). That the latch and RACE stay is the model's choice, log entries 8 and 9. -/
def Obligations.OddRleLengthRejected : Prop :=
  (∀ s : State, s.race = false → RangePasses s.latch.operands → DisjointRegions s.latch.operands →
    s.latch.operands.srcLen.toNat % 2 = 1 →
    ∃ t, exec .rleDec s = .next t ∧ RejectedWith s t 5 s.latch.operands.srcLen)
  ∧ ∀ (i : Instr) (s : State), s.race = false → i ≠ .rleDec → ∃ t, exec i s = .next t ∧ t.errcode ≠ 5

/-- R123: a failed precheck, an illegal word's among them, reads no memory (the outcome is the same over any memory),
leaves it as it is, and leaves RES_LEN, RES_FRAMES, RES_DISCARD and RES_PAYLOAD at what they were, which is 0 after
acceptance. -/
def Obligations.PrecheckErrorsTouchNothing : Prop :=
  ∀ s : State, s.phase = .busy → s.race = false → (∀ i, decode s.latch.cmd = .ok i → ¬ PrechecksPass i s) →
    ∃ t, engineTurn s = .next t ∧ t.error = true ∧ t.mem = s.mem ∧ t.results.len = s.results.len
      ∧ t.results.frames = s.results.frames ∧ t.results.discard = s.results.discard
      ∧ t.results.payload = s.results.payload
      ∧ (∀ m : Memory, engineTurn { s with mem := m } = .next { t with mem := m })
      ∧ ∀ w : Word, s.results = { len := 0, frames := 0, discard := 0, payload := 0, errInfo := w } →
          t.results = { len := 0, frames := 0, discard := 0, payload := 0, errInfo := t.results.errInfo }

/-! ## Execution errors and races -/

/-- With the prechecks passed and no execution error applicable, a command writes its output and reports its counts
(R124). That each fits in 32 bits is the spec's own inference there: "[derived: |r.out| ≤ L.DST_CAP < 2^32, ...]". That
the latch and RACE stay is the model's choice, log entries 8 and 9. -/
def Obligations.SuccessWritesOutput : Prop :=
  ∀ (i : Instr) (s : State) (r : Run), s.race = false → PrechecksPass i s → r = runOf i s.latch.operands s.mem →
    r.bad = none → r.out.length ≤ s.latch.operands.dstCap.toNat →
    Answered s.plat s.latch.operands.srcAddr.toNat r.readLen →
    Answered s.plat s.latch.operands.dstAddr.toNat r.out.length →
    (∃ t, exec i s = .next t ∧ SucceedsWith s t r.out r.frames r.discard r.payload)
    ∧ r.out.length < 2 ^ 32 ∧ r.frames < 2 ^ 32 ∧ r.discard < 2 ^ 32 ∧ r.payload < 2 ^ 32

/-- If some execution error applies, the command fails with one of the applicable errors and the detail that error names;
nothing outside the write region changes; which one is a free choice (R114, R121, R125). That an applicable ERR_BUS
forces a failure, where R73 says "may", is the model's reading, log entry 13; that the latch and RACE stay is its
choice, log entries 8 and 9. -/
def Obligations.ExecutionErrorIsApplicable : Prop :=
  ∀ (i : Instr) (s : State) (r : Run), s.race = false → PrechecksPass i s → r = runOf i s.latch.operands s.mem →
    ¬ (r.bad = none ∧ r.out.length ≤ s.latch.operands.dstCap.toNat
        ∧ Answered s.plat s.latch.operands.srcAddr.toNat r.readLen
        ∧ Answered s.plat s.latch.operands.dstAddr.toNat r.out.length) →
    ∃ t code info, exec i s = .next t ∧ SpoiledWith s t code info
      ∧ ((code = 5 ∧ ∃ off, r.bad = some off ∧ info = BitVec.ofNat 32 off)
        ∨ (code = 6 ∧ s.latch.operands.dstCap.toNat < r.out.length
            ∧ info = BitVec.ofNat 32 (min r.out.length (2 ^ 32 - 1)))
        ∨ (code = 7 ∧ ∃ a, info = BitVec.ofNat 32 a ∧ engineAnswered s.plat a = false
            ∧ ((s.latch.operands.srcAddr.toNat ≤ a ∧ a < s.latch.operands.srcAddr.toNat + r.readLen)
              ∨ (s.latch.operands.dstAddr.toNat ≤ a
                  ∧ a < s.latch.operands.dstAddr.toNat + min r.out.length s.latch.operands.dstCap.toNat))))

/-- An output longer than DST_CAP, and nothing else wrong, is ERR_CAPACITY with the required length (R122). That the latch
and RACE stay is the model's choice, log entries 8 and 9. -/
def Obligations.CapacityErrorReportsLength : Prop :=
  ∀ (i : Instr) (s : State) (r : Run), s.race = false → PrechecksPass i s → r = runOf i s.latch.operands s.mem →
    r.bad = none → s.latch.operands.dstCap.toNat < r.out.length →
    Answered s.plat s.latch.operands.srcAddr.toNat r.readLen →
    Answered s.plat s.latch.operands.dstAddr.toNat s.latch.operands.dstCap.toNat →
    ∃ t, exec i s = .next t
      ∧ SpoiledWith s t 6 (if r.out.length < 2 ^ 32 then BitVec.ofNat 32 r.out.length else 0xFFFFFFFF)

/-- Under a race the command completes, with some code in 0 .. 7 (R126). That memory stays when either region fails the
range check is the model's reading of R126's "if the range check passed", log entry 11. -/
def Obligations.RacedCompletion : Prop :=
  ∀ (i : Instr) (s : State), s.race = true →
    ∃ t, exec i s = .next t ∧ t.phase = .idle ∧ t.done = true ∧ t.errcode.toNat ≤ 7
      ∧ t.error = (t.errcode != 0)
      ∧ (∀ a, s.latch.operands.inWriteRegion a = false → t.byteAt a = s.byteAt a)
      ∧ (¬ RangePasses s.latch.operands → t.mem = s.mem)

/-- The frame of every command's completion: the flags agree with the code, and only the results, the flags, the phase,
the write region and the model's draw counter may change. That the latch and RACE stay, which have no meaning in IDLE, is
the model's choice, log entries 8 and 9. -/
def Obligations.CompletionFrame : Prop :=
  ∀ (i : Instr) (s : State), ∃ t, exec i s = .next t
    ∧ t = { s with
        results := t.results, done := true, error := t.errcode != 0, errcode := t.errcode, phase := .idle
        irqStatus := s.irqStatus ||| (if t.errcode = 0 then 0b01 else 0b11), mem := t.mem, draws := t.draws }
    ∧ ∀ a, s.latch.operands.inWriteRegion a = false → t.byteAt a = s.byteAt a

/-- R68 (a) and (d): a host memory write while BUSY sets RACE exactly when it touches the footprint (or RACE was set);
bytes outside the footprint take what is written, and bytes outside the access stay. -/
def Obligations.HostWriteWhileBusy : Prop :=
  ∀ (s : State) (a : Word) (data : List Byte), s.phase = .busy → route s.plat a.toNat data.length = .memory →
    ∃ t, takeTurn (.hostWrite a data) s = .next t
      ∧ (t.race = true ↔ s.race = true ∨ ∃ k, k < data.length ∧ s.latch.operands.inFootprint (a.toNat + k) = true)
      ∧ (∀ k, k < data.length → s.latch.operands.inWriteRegion (a.toNat + k) = false →
          t.byteAt (a.toNat + k) = data.getD k 0)
      ∧ (∀ x, x < a.toNat ∨ a.toNat + data.length ≤ x → t.byteAt x = s.byteAt x)
      ∧ t = { s with mem := t.mem, race := t.race, draws := t.draws }

/-- A host memory read while BUSY returns current memory outside the write region, and changes no state of VEC (R68 (c),
(d)). It sets RACE exactly when it touches the write region (or RACE was set): that such a read opens the command's
outcome is R251; that it does so through RACE is the model's reading, log entry 30. -/
def Obligations.HostReadWhileBusy : Prop :=
  ∀ (s : State) (a : Word) (n : Nat), s.phase = .busy → route s.plat a.toNat n = .memory →
    ∃ t, takeTurn (.hostRead a n) s = .next t ∧ t.busData.length = n
      ∧ (∀ k, k < n → s.latch.operands.inWriteRegion (a.toNat + k) = false →
          t.busData.getD k 0 = s.byteAt (a.toNat + k))
      ∧ (t.race = true ↔ s.race = true ∨ ∃ k, k < n ∧ s.latch.operands.inWriteRegion (a.toNat + k) = true)
      ∧ t = { s with busData := t.busData, race := t.race, draws := t.draws }

/-- A host's memory accesses while IDLE: a write stores its bytes and nothing else; a read returns memory. -/
def Obligations.HostMemoryWhileIdle : Prop :=
  ∀ (s : State) (a : Word) (data : List Byte), s.phase = .idle → route s.plat a.toNat data.length = .memory →
    (∃ t, takeTurn (.hostWrite a data) s = .next t
      ∧ (∀ k, k < data.length → t.byteAt (a.toNat + k) = data.getD k 0)
      ∧ (∀ x, x < a.toNat ∨ a.toNat + data.length ≤ x → t.byteAt x = s.byteAt x)
      ∧ t = { s with mem := t.mem })
    ∧ takeTurn (.hostRead a data.length) s = .next { s with busData := s.bytesAt a.toNat data.length }

/-! ## The commands -/

/-- CSC_ENC runs to completion and writes the encoded frames (R149, R150). That the latch and RACE stay is the model's
choice, log entries 8 and 9. -/
def Obligations.CscEncCompletes : Prop :=
  ∀ (s : State) (w h n : Nat), s.race = false → PrechecksPass .cscEnc s →
    w = s.latch.operands.width.toNat → h = s.latch.operands.height.toNat →
    n = s.latch.operands.srcLen.toNat / (3 * w * h) → n * (3 * w * h / 2) ≤ s.latch.operands.dstCap.toNat →
    Answered s.plat s.latch.operands.srcAddr.toNat (n * (3 * w * h)) →
    Answered s.plat s.latch.operands.dstAddr.toNat (n * (3 * w * h / 2)) →
    ∃ t, exec .cscEnc s = .next t
      ∧ SucceedsWith s t ((s.sourceFrames (3 * w * h)).flatMap (cscEncodeFrame w h)) n
          (s.latch.operands.srcLen.toNat - n * (3 * w * h)) (n * (3 * w * h / 2))
      ∧ t.results.len = BitVec.ofNat 32 (n * (3 * w * h / 2))
      ∧ (runOf .cscEnc s.latch.operands s.mem).readLen = n * (3 * w * h)

/-- CSC_DEC runs to completion and writes the decoded frames (R155, R156). That the latch and RACE stay is the model's
choice, log entries 8 and 9. -/
def Obligations.CscDecCompletes : Prop :=
  ∀ (s : State) (w h n : Nat), s.race = false → PrechecksPass .cscDec s →
    w = s.latch.operands.width.toNat → h = s.latch.operands.height.toNat →
    n = s.latch.operands.srcLen.toNat / (3 * w * h / 2) → n * (3 * w * h) ≤ s.latch.operands.dstCap.toNat →
    Answered s.plat s.latch.operands.srcAddr.toNat (n * (3 * w * h / 2)) →
    Answered s.plat s.latch.operands.dstAddr.toNat (n * (3 * w * h)) →
    ∃ t, exec .cscDec s = .next t
      ∧ SucceedsWith s t ((s.sourceFrames (3 * w * h / 2)).flatMap (cscDecodeFrame w h)) n
          (s.latch.operands.srcLen.toNat - n * (3 * w * h / 2)) (n * (3 * w * h))
      ∧ t.results.len = BitVec.ofNat 32 (n * (3 * w * h))
      ∧ (runOf .cscDec s.latch.operands s.mem).readLen = n * (3 * w * h / 2)

/-- DELTA_ENC completes; byte j of output frame 0 is the source's, byte j of output frame i + 1 is source frame i + 1 less
source frame i, modulo 256 (R171, R173). That the latch and RACE stay is the model's choice, log entries 8 and 9. -/
def Obligations.DeltaEncCompletes : Prop :=
  ∀ (s : State) (f n : Nat), s.race = false → PrechecksPass .deltaEnc s →
    f = s.latch.operands.frameLen.toNat → n = s.latch.operands.srcLen.toNat / f →
    n * f ≤ s.latch.operands.dstCap.toNat →
    Answered s.plat s.latch.operands.srcAddr.toNat (n * f) → Answered s.plat s.latch.operands.dstAddr.toNat (n * f) →
    ∃ t out, exec .deltaEnc s = .next t
      ∧ SucceedsWith s t out n (s.latch.operands.srcLen.toNat - n * f) (n * f) ∧ out.length = n * f
      ∧ (runOf .deltaEnc s.latch.operands s.mem).readLen = n * f
      ∧ (∀ j, j < f → 0 < n → out.getD j 0 = (s.sourceFrame f 0).getD j 0)
      ∧ ∀ i j, i + 1 < n → j < f →
          out.getD ((i + 1) * f + j) 0 = (s.sourceFrame f (i + 1)).getD j 0 - (s.sourceFrame f i).getD j 0

/-- DELTA_DEC completes; byte j of output frame 0 is the source's, byte j of output frame i + 1 is source frame i + 1 plus
OUTPUT frame i, modulo 256 (R174, R175). That the latch and RACE stay is the model's choice, log entries 8 and 9. -/
def Obligations.DeltaDecCompletes : Prop :=
  ∀ (s : State) (f n : Nat), s.race = false → PrechecksPass .deltaDec s →
    f = s.latch.operands.frameLen.toNat → n = s.latch.operands.srcLen.toNat / f →
    n * f ≤ s.latch.operands.dstCap.toNat →
    Answered s.plat s.latch.operands.srcAddr.toNat (n * f) → Answered s.plat s.latch.operands.dstAddr.toNat (n * f) →
    ∃ t out, exec .deltaDec s = .next t
      ∧ SucceedsWith s t out n (s.latch.operands.srcLen.toNat - n * f) (n * f) ∧ out.length = n * f
      ∧ (runOf .deltaDec s.latch.operands s.mem).readLen = n * f
      ∧ (∀ j, j < f → 0 < n → out.getD j 0 = (s.sourceFrame f 0).getD j 0)
      ∧ ∀ i j, i + 1 < n → j < f →
          out.getD ((i + 1) * f + j) 0 = (s.sourceFrame f (i + 1)).getD j 0 + out.getD (i * f + j) 0

/-- RLE_ENC completes with the run-length encoding of the whole source region (R184). That the latch and RACE stay is the
model's choice, log entries 8 and 9. -/
def Obligations.RleEncCompletes : Prop :=
  ∀ (s : State) (out : List Byte), s.race = false → PrechecksPass .rleEnc s → out = rleEncode s.sourceBytes →
    out.length ≤ s.latch.operands.dstCap.toNat →
    Answered s.plat s.latch.operands.srcAddr.toNat s.latch.operands.srcLen.toNat →
    Answered s.plat s.latch.operands.dstAddr.toNat out.length →
    ∃ t, exec .rleEnc s = .next t ∧ SucceedsWith s t out (out.length / 2) 0 out.length
      ∧ (runOf .rleEnc s.latch.operands s.mem).readLen = s.latch.operands.srcLen.toNat

/-- RLE_DEC completes with the expansion of the whole source region, if no count is zero; the first zero count is reported
otherwise (R188). That the latch and RACE stay is the model's choice, log entries 8 and 9. -/
def Obligations.RleDecCompletes : Prop :=
  ∀ (s : State) (d : RleDecoded), s.race = false → PrechecksPass .rleDec s → d = rleDecode s.sourceBytes →
    d.out.length ≤ s.latch.operands.dstCap.toNat →
    Answered s.plat s.latch.operands.srcAddr.toNat s.latch.operands.srcLen.toNat →
    Answered s.plat s.latch.operands.dstAddr.toNat d.out.length →
    (d.bad = none → ∃ t, exec .rleDec s = .next t
      ∧ SucceedsWith s t d.out (s.latch.operands.srcLen.toNat / 2) 0 d.out.length)
    ∧ ∀ off, d.bad = some off → ∃ t, exec .rleDec s = .next t ∧ SpoiledWith s t 5 (BitVec.ofNat 32 off)

/-- DRLE_ENC completes with the record stream; RES_LEN counts the headers, RES_PAYLOAD does not (R200). That the latch and
RACE stay is the model's choice, log entries 8 and 9. -/
def Obligations.DrleEncCompletes : Prop :=
  ∀ (s : State) (f n : Nat) (out : List Byte), s.race = false → PrechecksPass .drleEnc s →
    f = s.latch.operands.frameLen.toNat → n = s.latch.operands.srcLen.toNat / f →
    out = drleEncode (s.sourceFrames f) → out.length ≤ s.latch.operands.dstCap.toNat →
    Answered s.plat s.latch.operands.srcAddr.toNat (n * f) → Answered s.plat s.latch.operands.dstAddr.toNat out.length →
    ∃ t payload, exec .drleEnc s = .next t
      ∧ SucceedsWith s t out n (s.latch.operands.srcLen.toNat - n * f) payload ∧ out.length = 8 * n + payload
      ∧ (runOf .drleEnc s.latch.operands s.mem).readLen = n * f

/-- Empty work is success, for every command (R128). That the latch and RACE stay is the model's choice, log entries 8 and
9. -/
def Obligations.EmptyWorkSucceeds : Prop :=
  (∀ (i : Instr) (fin : Nat) (s : State), s.race = false → PrechecksPass i s →
    ((i = .cscEnc ∧ fin = 3 * s.latch.operands.width.toNat * s.latch.operands.height.toNat)
      ∨ (i = .cscDec ∧ fin = 3 * s.latch.operands.width.toNat * s.latch.operands.height.toNat / 2)
      ∨ ((i = .deltaEnc ∨ i = .deltaDec ∨ i = .drleEnc) ∧ fin = s.latch.operands.frameLen.toNat)) →
    s.latch.operands.srcLen.toNat < fin →
    ∃ t, exec i s = .next t ∧ SucceedsWith s t [] 0 s.latch.operands.srcLen.toNat 0)
  ∧ ∀ (i : Instr) (s : State), s.race = false → PrechecksPass i s → (i = .rleEnc ∨ i = .rleDec) →
      s.latch.operands.srcLen = 0 → ∃ t, exec i s = .next t ∧ SucceedsWith s t [] 0 0 0

/-- The operands a command ignores do not matter to it (R93). The equations also give the completed state the latch the
command ran with, which has no meaning in IDLE (R36): that a completion leaves it is the model's choice, log entry 8. -/
def Obligations.IgnoredOperandsDoNotMatter : Prop :=
  ∀ (s : State) (v v' v'' : Word),
    (∀ i, i = .cscEnc ∨ i = .cscDec → ∃ t, exec i s = .next t
      ∧ exec i { s with latch := { s.latch with operands := { s.latch.operands with frameLen := v } } }
        = .next { t with latch := { s.latch with operands := { s.latch.operands with frameLen := v } } })
    ∧ (∀ i, i = .deltaEnc ∨ i = .deltaDec ∨ i = .drleEnc → ∃ t, exec i s = .next t
      ∧ exec i { s with latch := { s.latch with operands := { s.latch.operands with width := v, height := v' } } }
        = .next { t with latch := { s.latch with operands := { s.latch.operands with width := v, height := v' } } })
    ∧ (∀ i, i = .rleEnc ∨ i = .rleDec → ∃ t, exec i s = .next t
      ∧ exec i { s with
            latch := { s.latch with
              operands := { s.latch.operands with width := v, height := v', frameLen := v'' } } }
        = .next { t with
            latch := { s.latch with
              operands := { s.latch.operands with width := v, height := v', frameLen := v'' } } })

/-- R36: what the operand registers and CMD hold at completion does not matter to the running command. -/
def Obligations.RunReadsOnlyTheLatch : Prop :=
  ∀ (s : State) (o : Operands) (w : Word), s.phase = .busy →
    ∃ t, engineTurn s = .next t ∧ engineTurn { s with operands := o, cmd := w } = .next { t with operands := o, cmd := w }

/-- The output of CSC_ENC and of CSC_DEC, frame by frame: over two memories that agree on source frame i, whatever they
hold elsewhere, the byte range of output frame i is the same (R159). -/
def Obligations.ColourFramesIndependent : Prop :=
  ∀ (o : Operands) (m m' : Memory) (w h i : Nat), w = o.width.toNat → h = o.height.toNat → w % 2 = 0 → h % 2 = 0 →
    (i < o.srcLen.toNat / (3 * w * h) →
      (∀ k, k < 3 * w * h →
        m.read (o.srcAddr.toNat + i * (3 * w * h) + k) = m'.read (o.srcAddr.toNat + i * (3 * w * h) + k)) →
      ∀ k, k < 3 * w * h / 2 →
        (runOf .cscEnc o m).out.getD (i * (3 * w * h / 2) + k) 0
          = (runOf .cscEnc o m').out.getD (i * (3 * w * h / 2) + k) 0)
    ∧ (i < o.srcLen.toNat / (3 * w * h / 2) →
      (∀ k, k < 3 * w * h / 2 →
        m.read (o.srcAddr.toNat + i * (3 * w * h / 2) + k) = m'.read (o.srcAddr.toNat + i * (3 * w * h / 2) + k)) →
      ∀ k, k < 3 * w * h →
        (runOf .cscDec o m).out.getD (i * (3 * w * h) + k) 0 = (runOf .cscDec o m').out.getD (i * (3 * w * h) + k) 0)

/-! ## The colour transform (spec/41_color_transform.md) -/

/-- R142, R143 and R144 on exact rationals. -/
def Obligations.ForwardPixelFormulas : Prop :=
  ∀ r g b : Byte,
    ((lumaY r g b).toNat : ℤ)
      = u8Rat (⌊(299 / 1000 : ℚ) * r.toNat + (587 / 1000 : ℚ) * g.toNat + (114 / 1000 : ℚ) * b.toNat⌋ : ℤ)
    ∧ ((chromaU r g b).toNat : ℤ)
      = u8Rat (-(169 / 1000 : ℚ) * r.toNat - (331 / 1000 : ℚ) * g.toNat + (449 / 1000 : ℚ) * b.toNat + 128)
    ∧ ((chromaV r g b).toNat : ℤ)
      = u8Rat ((499 / 1000 : ℚ) * r.toNat - (418 / 1000 : ℚ) * g.toNat - (813 / 10000 : ℚ) * b.toNat + 128)

/-- R152 on exact rationals, with u and v the offset chroma of R151. -/
def Obligations.InversePixelFormulas : Prop :=
  ∀ y cu cv : Byte,
    ((redOf y (chromaOffset cv)).toNat : ℤ)
      = u8Rat (clampRat ((y.toNat : ℚ) + (1402 / 1000 : ℚ) * ((cv.toNat : ℚ) - 128)) 0 255)
    ∧ ((greenOf y (chromaOffset cu) (chromaOffset cv)).toNat : ℤ)
      = u8Rat (clampRat ((y.toNat : ℚ) - (344 / 1000 : ℚ) * ((cu.toNat : ℚ) - 128)
          - (714 / 1000 : ℚ) * ((cv.toNat : ℚ) - 128)) 0 255)
    ∧ ((blueOf y (chromaOffset cu)).toNat : ℤ)
      = u8Rat (clampRat ((y.toNat : ℚ) + (1772 / 1000 : ℚ) * ((cu.toNat : ℚ) - 128)) 0 255)

/-- The integer forms, by floor division. The spec derives them itself: "[derived: from rules R141 to R144 and rule
R146]" and "[derived: from rule R152]" (R145, R153). -/
def Obligations.IntegerFormsAgree : Prop :=
  (∀ r g b : Byte,
    (lumaY r g b).toNat = (299 * r.toNat + 587 * g.toNat + 114 * b.toNat) / 1000
    ∧ ((chromaU r g b).toNat : ℤ)
        = (-169 * (r.toNat : ℤ) - 331 * (g.toNat : ℤ) + 449 * (b.toNat : ℤ) + 128000) / 1000
    ∧ ((chromaV r g b).toNat : ℤ)
        = (4990 * (r.toNat : ℤ) - 4180 * (g.toNat : ℤ) - 813 * (b.toNat : ℤ) + 1280000) / 10000)
  ∧ ∀ (y : Byte) (u v : ℤ), -128 ≤ u → u ≤ 127 → -128 ≤ v → v ≤ 127 →
    ((redOf y v).toNat : ℤ) = max 0 (min 255 ((1000 * (y.toNat : ℤ) + 1402 * v) / 1000))
    ∧ ((greenOf y u v).toNat : ℤ) = max 0 (min 255 ((1000 * (y.toNat : ℤ) - 344 * u - 714 * v) / 1000))
    ∧ ((blueOf y u).toNat : ℤ) = max 0 (min 255 ((1000 * (y.toNat : ℤ) + 1772 * u) / 1000))

/-- The round trip of a colour through its own Y, U and V is off by at most 3, 5 and 26, and reaches each. The spec's own
inference (R158): "[derived: exhaustive evaluation of rules R142 to R153]". -/
def Obligations.RoundTripErrorBounds : Prop :=
  (∀ r g b : Byte,
    |((redOf (lumaY r g b) (chromaOffset (chromaV r g b))).toNat : ℤ) - r.toNat| ≤ 3
    ∧ |((greenOf (lumaY r g b) (chromaOffset (chromaU r g b)) (chromaOffset (chromaV r g b))).toNat : ℤ) - g.toNat| ≤ 5
    ∧ |((blueOf (lumaY r g b) (chromaOffset (chromaU r g b))).toNat : ℤ) - b.toNat| ≤ 26)
  ∧ (redOf (lumaY 3 0 44) (chromaOffset (chromaV 3 0 44))).toNat = 0
  ∧ (greenOf (lumaY 0 0 247) (chromaOffset (chromaU 0 0 247)) (chromaOffset (chromaV 0 0 247))).toNat = 5
  ∧ (blueOf (lumaY 0 4 250) (chromaOffset (chromaU 0 4 250))).toNat = 224

/-- R148 with R147: the length and every byte of an encoded frame. `pixelRgb c f p` is `c` of the bytes 3p, 3p + 1 and
3p + 2 of the frame. -/
def Obligations.EncodedFrameLayout : Prop :=
  ∀ (f : Frame) (w h : Nat), w % 2 = 0 → h % 2 = 0 → f.length = 3 * w * h →
    (cscEncodeFrame w h f).length = 3 * w * h / 2
    ∧ (∀ p, p < w * h →
        (cscEncodeFrame w h f).getD p 0 = lumaY (f.getD (3 * p) 0) (f.getD (3 * p + 1) 0) (f.getD (3 * p + 2) 0))
    ∧ ∀ y x p00 q, y < h / 2 → x < w / 2 → p00 = 2 * y * w + 2 * x → q = y * (w / 2) + x →
        ((cscEncodeFrame w h f).getD (w * h + q) 0).toNat
            = ((pixelRgb chromaU f p00).toNat + (pixelRgb chromaU f (p00 + 1)).toNat
                + (pixelRgb chromaU f (p00 + w)).toNat + (pixelRgb chromaU f (p00 + w + 1)).toNat) / 4
        ∧ ((cscEncodeFrame w h f).getD (w * h + w * h / 4 + q) 0).toNat
            = ((pixelRgb chromaV f p00).toNat + (pixelRgb chromaV f (p00 + 1)).toNat
                + (pixelRgb chromaV f (p00 + w)).toNat + (pixelRgb chromaV f (p00 + w + 1)).toNat) / 4

/-- R155 with R151: the length and every byte of a decoded frame. -/
def Obligations.DecodedFrameLayout : Prop :=
  ∀ (f : Frame) (w h : Nat), w % 2 = 0 → h % 2 = 0 → f.length = 3 * w * h / 2 →
    (cscDecodeFrame w h f).length = 3 * w * h
    ∧ ∀ j k p q, j < h → k < w → p = j * w + k → q = j / 2 * (w / 2) + k / 2 →
        ∀ (y : Byte) (u v : ℤ), y = f.getD p 0 → u = ((f.getD (w * h + q) 0).toNat : ℤ) - 128 →
          v = ((f.getD (w * h + w * h / 4 + q) 0).toNat : ℤ) - 128 →
          (cscDecodeFrame w h f).getD (3 * p) 0 = redOf y v
          ∧ (cscDecodeFrame w h f).getD (3 * p + 1) 0 = greenOf y u v
          ∧ (cscDecodeFrame w h f).getD (3 * p + 2) 0 = blueOf y u

/-! ## The delta and run-length codes (spec/42_delta_rle_codec.md) -/

/-- The delta code and its reconstruction are inverse to each other on frames of one length. The spec's own inference
(R177): "[derived: from rules R171 and R174, by induction on i ...]". -/
def Obligations.DeltaIdentity : Prop :=
  ∀ (f : Nat) (s : List Frame), (∀ x ∈ s, x.length = f) →
    deltaDecodeSeq (deltaEncodeSeq s) = s ∧ deltaEncodeSeq (deltaDecodeSeq s) = s

/-- R181: one maximal run, up to 255 long, becomes one pair, and encoding continues after it. -/
def Obligations.RleEncodesMaximalRuns : Prop :=
  rleEncode [] = []
  ∧ ∀ (v : Byte) (c : Nat) (t : List Byte), 1 ≤ c → c ≤ 255 → (c = 255 ∨ t.head? ≠ some v) →
      rleEncode (List.replicate c v ++ t) = BitVec.ofNat 8 c :: v :: rleEncode t

/-- Every count is in 1 .. 255, the length is even and between 2 ceil(n/255) and 2n; N equal
bytes meet the lower bound, and a buffer with no two adjacent equal bytes the upper one. The spec's own inference (R182
(a), (c), (e)): "[derived: from rule R181]". -/
def Obligations.RleCountsAndLengths : Prop :=
  (∀ s : List Byte,
    (∀ k, 2 * k < (rleEncode s).length → (rleEncode s).getD (2 * k) 0 ≠ 0)
    ∧ (rleEncode s).length % 2 = 0 ∧ (rleEncode s).length ≤ 2 * s.length
    ∧ 2 * ((s.length + 254) / 255) ≤ (rleEncode s).length)
  ∧ (∀ (n : Nat) (v : Byte), (rleEncode (List.replicate n v)).length = (n + 254) / 255 * 2)
  ∧ ∀ s : List Byte, (∀ k, k + 1 < s.length → s.getD k 0 ≠ s.getD (k + 1) 0) →
      (rleEncode s).length = 2 * s.length

/-- R186: what the decoder does with each pair, and at the first zero count. -/
def Obligations.RleDecodesPairs : Prop :=
  ∀ pairs : List (Byte × Byte), ∀ t : List Byte, t = pairs.flatMap (fun p => [p.1, p.2]) →
    ((∀ p ∈ pairs, p.1 ≠ 0) →
      rleDecode t = { out := pairs.flatMap fun p => List.replicate p.1.toNat p.2, bad := none })
    ∧ ∀ k, k < pairs.length → (∀ p ∈ pairs.take k, p.1 ≠ 0) → (pairs.getD k (1, 0)).1 = 0 →
        rleDecode t
          = { out := (pairs.take k).flatMap fun p => List.replicate p.1.toNat p.2, bad := some (2 * k) }

/-- Decoding an encoding restores the buffer, and no encoding is malformed. The spec's own inference (R189): "[derived:
from rules R181 and R186]". -/
def Obligations.RleRoundTrip : Prop :=
  ∀ s : List Byte, rleDecode (rleEncode s) = { out := s, bad := none }

/-- R198: the records of a frame sequence, header by header: KIND 0 and frame 0, then KIND 1 and the run-length
encoding of each later delta frame, each with its little-endian length, even and between 2 and 2F for a run-length body. -/
def Obligations.DrleRecordFormat : Prop :=
  drleEncode [] = []
  ∧ (∀ x : Frame, 0 < x.length →
      (rleEncode x).length % 2 = 0 ∧ 2 ≤ (rleEncode x).length ∧ (rleEncode x).length ≤ 2 * x.length)
  ∧ ∀ (f : Nat) (frame : Frame) (rest : List Frame), (∀ x ∈ frame :: rest, x.length = f) →
      drleEncode (frame :: rest)
        = [0x00, 0, 0, 0] ++ leBytes 4 f ++ frame
          ++ ((frame :: rest).zip rest).flatMap (fun pc =>
              [0x01, 0, 0, 0]
                ++ leBytes 4 (rleEncode (List.zipWith (fun c p : Byte => c - p) pc.2 pc.1)).length
                ++ rleEncode (List.zipWith (fun c p : Byte => c - p) pc.2 pc.1))

/-- Unpacking the records of a DRLE_ENC stream as the spec's staged decode says (R215) and reconstructing gives the frames
back. The spec's own inference (R201): "[derived: from rules R177, R189 and R200]". What unpackRecords answers on other
streams is the model's choice, log entry 29; this statement is about DRLE_ENC's own. -/
def Obligations.StagedDecodeRestoresFrames : Prop :=
  ∀ (f fuel : Nat) (s : List Frame), (∀ x ∈ s, x.length = f) → s.length * f < 2 ^ 32 → s.length ≤ fuel →
    (unpackRecords fuel (drleEncode s)).map deltaDecodeSeq = some s

/-! ## Whole-machine invariants -/

/-- The invariant holds at reset. -/
def Obligations.ResetMeetsInvariant : Prop := State.reset.Inv

/-- Every step keeps the invariant, whoever takes it. -/
def Obligations.StepKeepsInvariant : Prop := ∀ s t : State, s.Inv → step s = .next t → t.Inv

/-- No step changes the platform's parameters, and a step takes no turn but the agenda's first. -/
def Obligations.StepKeepsPlatform : Prop :=
  ∀ s t : State, step s = .next t → t.plat = s.plat ∧ t.agenda = s.agenda.tail

/-- A byte of memory changes only where a host writes it, or inside the write region of a running command. -/
def Obligations.MemoryChangesOnlyWhereAllowed : Prop :=
  ∀ (s t : State) (x : Nat), step s = .next t → t.byteAt x ≠ s.byteAt x →
    (s.phase = .busy ∧ s.latch.operands.inWriteRegion x = true)
    ∨ ∃ a data rest, s.agenda = .hostWrite a data :: rest ∧ a.toNat ≤ x ∧ x < a.toNat + data.length

/-- Only the engine's turn records a result: a step that sets a pending bit, DONE or ERROR that was clear is a completion,
taken while BUSY with no turn or a completion turn first in the agenda, and it ends in IDLE. So no host access and no
reset sets one. The agenda is the model's (log entry 1). -/
def Obligations.OnlyCompletionSetsFlags : Prop :=
  ∀ s t : State, step s = .next t →
    (∃ i, i < 2 ∧ s.irqStatus.getLsbD i = false ∧ t.irqStatus.getLsbD i = true)
      ∨ (s.done = false ∧ t.done = true) ∨ (s.error = false ∧ t.error = true) →
    s.phase = .busy ∧ t.phase = .idle ∧ (s.agenda = [] ∨ ∃ rest, s.agenda = .completion :: rest)
end

