-- ==== Sys2Proof/Laws/Memory.lean ====
section
/-! SUPPORT. The laws of memory: what a write makes each address read, and that every operation keeps the canonical
form. -/
namespace Sys2Proof.Machine

@[simp] theorem Memory.lookup_nil (a : Nat) : Memory.lookup [] a = none := rfl

theorem Memory.lookup_cons (k a : Nat) (b : Byte) (m : Memory) :
    Memory.lookup ((k, b) :: m) a = if k = a then some b else Memory.lookup m a := rfl

@[simp] theorem cellsFrom_length (bs : List Byte) (a : Nat) : (cellsFrom a bs).length = bs.length := by
  induction bs generalizing a with
  | nil => rfl
  | cons b bs ih => simp [cellsFrom, ih]

theorem mem_cellsFrom {bs : List Byte} {a : Nat} {c : Host.Cell} (h : c ∈ cellsFrom a bs) :
    a ≤ c.1 ∧ c.1 < a + bs.length := by
  induction bs generalizing a with
  | nil => simp [cellsFrom] at h
  | cons b bs ih =>
    simp only [cellsFrom, List.mem_cons] at h
    rcases h with rfl | h
    · simp
    · have := ih h
      simp only [List.length_cons]
      omega

theorem Memory.lookup_append (m n : Memory) (a : Nat) :
    Memory.lookup (m ++ n) a = (Memory.lookup m a).or (Memory.lookup n a) := by
  induction m with
  | nil => rfl
  | cons c m ih =>
    obtain ⟨k, b⟩ := c
    simp only [List.cons_append, Memory.lookup_cons, ih]
    split <;> simp

theorem Memory.lookup_filter (m : Memory) (p : Nat → Bool) (a : Nat) :
    Memory.lookup (m.filter fun c => p c.1) a = if p a then Memory.lookup m a else none := by
  induction m with
  | nil => simp
  | cons c m ih =>
    obtain ⟨k, b⟩ := c
    by_cases hk : p k <;> by_cases ha : p a <;> by_cases hka : k = a <;>
      simp_all [Memory.lookup_cons]

theorem lookup_cellsFrom (bs : List Byte) (a x : Nat) :
    Memory.lookup (cellsFrom a bs) x = if a ≤ x then bs[x - a]? else none := by
  induction bs generalizing a with
  | nil => simp [cellsFrom]
  | cons b bs ih =>
    simp only [cellsFrom, Memory.lookup_cons, ih]
    by_cases h : a = x
    · simp [h]
    · rw [if_neg h]
      by_cases h' : a + 1 ≤ x
      · have e : x - a = (x - (a + 1)) + 1 := by omega
        rw [if_pos h', if_pos (by omega), e, List.getElem?_cons_succ]
      · rw [if_neg h', if_neg (by omega)]

/-- A write gives its own addresses its bytes and leaves every other address as it was. -/
theorem Memory.lookup_writeBytes (m : Memory) (a x : Nat) (bs : List Byte) :
    (m.writeBytes a bs).lookup x = if a ≤ x ∧ x < a + bs.length then bs[x - a]? else m.lookup x := by
  simp only [Memory.writeBytes, Memory.lookup_append, lookup_cellsFrom]
  rw [Memory.lookup_filter m (fun k => decide (k < a)), Memory.lookup_filter m (fun k => decide (a + bs.length ≤ k))]
  by_cases h1 : x < a
  · simp [h1, show ¬ a ≤ x by omega, show ¬ a + bs.length ≤ x by omega]
  · by_cases h2 : x < a + bs.length
    · have h3 : x - a < bs.length := by omega
      simp [h1, h2, show a ≤ x by omega, h3]
    · simp [h1, h2, show a ≤ x by omega, show a + bs.length ≤ x by omega, show bs.length ≤ x - a by omega]

theorem Memory.read_writeBytes_outside (m : Memory) {a x : Nat} {bs : List Byte}
    (h : x < a ∨ a + bs.length ≤ x) : (m.writeBytes a bs).read x = m.read x := by
  have h' : ¬ (a ≤ x ∧ x < a + bs.length) := by omega
  simp only [Memory.read, Memory.lookup_writeBytes, if_neg h']

theorem Memory.read_writeBytes_inside (m : Memory) {a k : Nat} {bs : List Byte} (h : k < bs.length) :
    (m.writeBytes a bs).read (a + k) = bs[k] := by
  simp [Memory.read, Memory.lookup_writeBytes, h]

@[simp] theorem Memory.readBytes_length (m : Memory) (a n : Nat) : (m.readBytes a n).length = n := by
  simp [Memory.readBytes]

@[simp] theorem freeBytes_length (d a n : Nat) : (freeBytes d a n).length = n := by
  simp [freeBytes]

theorem Memory.read_scramble_outside (m : Memory) {d a n x : Nat} (h : x < a ∨ a + n ≤ x) :
    (m.scramble d a n).read x = m.read x := by
  apply Memory.read_writeBytes_outside
  simpa using h

/-- Reading back what was written (R12). -/
theorem Memory.readBytes_writeBytes (m : Memory) (a : Nat) (bs : List Byte) :
    (m.writeBytes a bs).readBytes a bs.length = bs := by
  apply List.ext_getElem (by simp)
  intro k h1 h2
  simp [Memory.readBytes, Memory.read_writeBytes_inside m h2]

theorem cellsFrom_pairwise (bs : List Byte) (a : Nat) :
    (cellsFrom a bs).Pairwise (fun c d : Host.Cell => c.1 < d.1) := by
  induction bs generalizing a with
  | nil => exact List.Pairwise.nil
  | cons b bs ih =>
    refine List.Pairwise.cons (fun c hc => ?_) (ih (a + 1))
    have := mem_cellsFrom hc
    simp only
    omega

/-- A write inside the address space keeps the canonical form. -/
theorem Memory.wf_writeBytes {m : Memory} (h : m.wf) {a : Nat} {bs : List Byte} (hb : a + bs.length ≤ 2 ^ 32) :
    (m.writeBytes a bs).wf := by
  refine ⟨?_, fun c hc => ?_⟩
  · simp only [Memory.writeBytes, List.pairwise_append, List.mem_append, List.mem_filter, decide_eq_true_eq]
    refine ⟨⟨h.1.filter _, cellsFrom_pairwise bs a, fun c hc d hd => ?_⟩, h.1.filter _, fun c hc d hd => ?_⟩
    · have := mem_cellsFrom hd
      omega
    · rcases hc with hc | hc
      · omega
      · have := mem_cellsFrom hc
        omega
  · simp only [Memory.writeBytes, List.mem_append, List.mem_filter] at hc
    rcases hc with (hc | hc) | hc
    · exact h.2 c hc.1
    · have := mem_cellsFrom hc
      omega
    · exact h.2 c hc.1

theorem Memory.wf_scramble {m : Memory} (h : m.wf) {d a n : Nat} (hb : a + n ≤ 2 ^ 32) : (m.scramble d a n).wf :=
  Memory.wf_writeBytes h (by simpa using hb)

theorem Memory.wf_nil : Memory.wf [] := by decide

@[simp] theorem leBytes_length (n v : Nat) : (leBytes n v).length = n := by
  induction n generalizing v with
  | zero => rfl
  | succ n ih => simp [leBytes, ih]

/-- Little-endian bytes put together again (R12). -/
theorem leValue_leBytes (n v : Nat) : leValue (leBytes n v) = v % 256 ^ n := by
  induction n generalizing v with
  | zero => simp [leBytes, leValue, Nat.mod_one]
  | succ n ih =>
    simp only [leBytes, leValue, ih, BitVec.toNat_ofNat]
    have e : v % 256 ^ (n + 1) = v % 256 + 256 * (v / 256 % 256 ^ n) := by
      rw [Nat.pow_succ, Nat.mul_comm (256 ^ n) 256, Nat.mod_mul]
    exact e.symm

end Sys2Proof.Machine
end

