-- ==== Sys2Proof/Laws/State.lean ====
section
/-! SUPPORT. What each named update of State leaves in each field: one lemma per field per update, true by rfl. -/
namespace Sys2Proof.Machine

@[simp] theorem State.startFlags_cmd (s : State) :
    s.startFlags.cmd = s.cmd := rfl
@[simp] theorem State.startFlags_operands (s : State) :
    s.startFlags.operands = s.operands := rfl
@[simp] theorem State.startFlags_results (s : State) :
    s.startFlags.results = s.results := rfl
@[simp] theorem State.startFlags_done (s : State) :
    s.startFlags.done = false := rfl
@[simp] theorem State.startFlags_error (s : State) :
    s.startFlags.error = false := rfl
@[simp] theorem State.startFlags_errcode (s : State) :
    s.startFlags.errcode = 0 := rfl
@[simp] theorem State.startFlags_irqEn (s : State) :
    s.startFlags.irqEn = s.irqEn := rfl
@[simp] theorem State.startFlags_irqStatus (s : State) :
    s.startFlags.irqStatus = s.irqStatus := rfl
@[simp] theorem State.startFlags_phase (s : State) :
    s.startFlags.phase = .busy := rfl
@[simp] theorem State.startFlags_latch (s : State) :
    s.startFlags.latch = s.latch := rfl
@[simp] theorem State.startFlags_race (s : State) :
    s.startFlags.race = s.race := rfl
@[simp] theorem State.startFlags_mem (s : State) :
    s.startFlags.mem = s.mem := rfl
@[simp] theorem State.startFlags_plat (s : State) :
    s.startFlags.plat = s.plat := rfl
@[simp] theorem State.startFlags_agenda (s : State) :
    s.startFlags.agenda = s.agenda := rfl
@[simp] theorem State.startFlags_busData (s : State) :
    s.startFlags.busData = s.busData := rfl
@[simp] theorem State.startFlags_draws (s : State) :
    s.startFlags.draws = s.draws := rfl

@[simp] theorem State.finishFlags_cmd (s : State) (c : BitVec 4) :
    (s.finishFlags c).cmd = s.cmd := rfl
@[simp] theorem State.finishFlags_operands (s : State) (c : BitVec 4) :
    (s.finishFlags c).operands = s.operands := rfl
@[simp] theorem State.finishFlags_results (s : State) (c : BitVec 4) :
    (s.finishFlags c).results = s.results := rfl
@[simp] theorem State.finishFlags_done (s : State) (c : BitVec 4) :
    (s.finishFlags c).done = true := rfl
@[simp] theorem State.finishFlags_error (s : State) (c : BitVec 4) :
    (s.finishFlags c).error = (c != 0) := rfl
@[simp] theorem State.finishFlags_errcode (s : State) (c : BitVec 4) :
    (s.finishFlags c).errcode = c := rfl
@[simp] theorem State.finishFlags_irqEn (s : State) (c : BitVec 4) :
    (s.finishFlags c).irqEn = s.irqEn := rfl
@[simp] theorem State.finishFlags_irqStatus (s : State) (c : BitVec 4) :
    (s.finishFlags c).irqStatus = s.irqStatus ||| (if c = 0 then 0b01 else 0b11) := rfl
@[simp] theorem State.finishFlags_phase (s : State) (c : BitVec 4) :
    (s.finishFlags c).phase = .idle := rfl
@[simp] theorem State.finishFlags_latch (s : State) (c : BitVec 4) :
    (s.finishFlags c).latch = s.latch := rfl
@[simp] theorem State.finishFlags_race (s : State) (c : BitVec 4) :
    (s.finishFlags c).race = s.race := rfl
@[simp] theorem State.finishFlags_mem (s : State) (c : BitVec 4) :
    (s.finishFlags c).mem = s.mem := rfl
@[simp] theorem State.finishFlags_plat (s : State) (c : BitVec 4) :
    (s.finishFlags c).plat = s.plat := rfl
@[simp] theorem State.finishFlags_agenda (s : State) (c : BitVec 4) :
    (s.finishFlags c).agenda = s.agenda := rfl
@[simp] theorem State.finishFlags_busData (s : State) (c : BitVec 4) :
    (s.finishFlags c).busData = s.busData := rfl
@[simp] theorem State.finishFlags_draws (s : State) (c : BitVec 4) :
    (s.finishFlags c).draws = s.draws := rfl

@[simp] theorem State.accept_cmd (s : State) (w : Word) :
    (s.accept w).cmd = w := rfl
@[simp] theorem State.accept_operands (s : State) (w : Word) :
    (s.accept w).operands = s.operands := rfl
@[simp] theorem State.accept_results (s : State) (w : Word) :
    (s.accept w).results = Results.reset := rfl
@[simp] theorem State.accept_done (s : State) (w : Word) :
    (s.accept w).done = false := rfl
@[simp] theorem State.accept_error (s : State) (w : Word) :
    (s.accept w).error = false := rfl
@[simp] theorem State.accept_errcode (s : State) (w : Word) :
    (s.accept w).errcode = 0 := rfl
@[simp] theorem State.accept_irqEn (s : State) (w : Word) :
    (s.accept w).irqEn = s.irqEn := rfl
@[simp] theorem State.accept_irqStatus (s : State) (w : Word) :
    (s.accept w).irqStatus = s.irqStatus := rfl
@[simp] theorem State.accept_phase (s : State) (w : Word) :
    (s.accept w).phase = .busy := rfl
@[simp] theorem State.accept_latch (s : State) (w : Word) :
    (s.accept w).latch = { cmd := w, operands := s.operands } := rfl
@[simp] theorem State.accept_race (s : State) (w : Word) :
    (s.accept w).race = false := rfl
@[simp] theorem State.accept_mem (s : State) (w : Word) :
    (s.accept w).mem = s.mem := rfl
@[simp] theorem State.accept_plat (s : State) (w : Word) :
    (s.accept w).plat = s.plat := rfl
@[simp] theorem State.accept_agenda (s : State) (w : Word) :
    (s.accept w).agenda = s.agenda := rfl
@[simp] theorem State.accept_busData (s : State) (w : Word) :
    (s.accept w).busData = s.busData := rfl
@[simp] theorem State.accept_draws (s : State) (w : Word) :
    (s.accept w).draws = s.draws := rfl

@[simp] theorem State.commit_cmd (s : State) (r : Run) :
    (s.commit r).cmd = s.cmd := rfl
@[simp] theorem State.commit_operands (s : State) (r : Run) :
    (s.commit r).operands = s.operands := rfl
@[simp] theorem State.commit_results (s : State) (r : Run) :
    (s.commit r).results = { len := BitVec.ofNat 32 r.out.length, frames := BitVec.ofNat 32 r.frames, discard := BitVec.ofNat 32 r.discard, payload := BitVec.ofNat 32 r.payload, errInfo := 0 } := rfl
@[simp] theorem State.commit_done (s : State) (r : Run) :
    (s.commit r).done = s.done := rfl
@[simp] theorem State.commit_error (s : State) (r : Run) :
    (s.commit r).error = s.error := rfl
@[simp] theorem State.commit_errcode (s : State) (r : Run) :
    (s.commit r).errcode = s.errcode := rfl
@[simp] theorem State.commit_irqEn (s : State) (r : Run) :
    (s.commit r).irqEn = s.irqEn := rfl
@[simp] theorem State.commit_irqStatus (s : State) (r : Run) :
    (s.commit r).irqStatus = s.irqStatus := rfl
@[simp] theorem State.commit_phase (s : State) (r : Run) :
    (s.commit r).phase = s.phase := rfl
@[simp] theorem State.commit_latch (s : State) (r : Run) :
    (s.commit r).latch = s.latch := rfl
@[simp] theorem State.commit_race (s : State) (r : Run) :
    (s.commit r).race = s.race := rfl
@[simp] theorem State.commit_mem (s : State) (r : Run) :
    (s.commit r).mem = s.mem.writeBytes s.latch.operands.dstAddr.toNat r.out := rfl
@[simp] theorem State.commit_plat (s : State) (r : Run) :
    (s.commit r).plat = s.plat := rfl
@[simp] theorem State.commit_agenda (s : State) (r : Run) :
    (s.commit r).agenda = s.agenda := rfl
@[simp] theorem State.commit_busData (s : State) (r : Run) :
    (s.commit r).busData = s.busData := rfl
@[simp] theorem State.commit_draws (s : State) (r : Run) :
    (s.commit r).draws = s.draws := rfl

@[simp] theorem State.rejectRun_cmd (s : State) (e : CmdError) :
    (s.rejectRun e).cmd = s.cmd := rfl
@[simp] theorem State.rejectRun_operands (s : State) (e : CmdError) :
    (s.rejectRun e).operands = s.operands := rfl
@[simp] theorem State.rejectRun_results (s : State) (e : CmdError) :
    (s.rejectRun e).results = { s.results with errInfo := e.info } := rfl
@[simp] theorem State.rejectRun_done (s : State) (e : CmdError) :
    (s.rejectRun e).done = s.done := rfl
@[simp] theorem State.rejectRun_error (s : State) (e : CmdError) :
    (s.rejectRun e).error = s.error := rfl
@[simp] theorem State.rejectRun_errcode (s : State) (e : CmdError) :
    (s.rejectRun e).errcode = s.errcode := rfl
@[simp] theorem State.rejectRun_irqEn (s : State) (e : CmdError) :
    (s.rejectRun e).irqEn = s.irqEn := rfl
@[simp] theorem State.rejectRun_irqStatus (s : State) (e : CmdError) :
    (s.rejectRun e).irqStatus = s.irqStatus := rfl
@[simp] theorem State.rejectRun_phase (s : State) (e : CmdError) :
    (s.rejectRun e).phase = s.phase := rfl
@[simp] theorem State.rejectRun_latch (s : State) (e : CmdError) :
    (s.rejectRun e).latch = s.latch := rfl
@[simp] theorem State.rejectRun_race (s : State) (e : CmdError) :
    (s.rejectRun e).race = s.race := rfl
@[simp] theorem State.rejectRun_mem (s : State) (e : CmdError) :
    (s.rejectRun e).mem = s.mem := rfl
@[simp] theorem State.rejectRun_plat (s : State) (e : CmdError) :
    (s.rejectRun e).plat = s.plat := rfl
@[simp] theorem State.rejectRun_agenda (s : State) (e : CmdError) :
    (s.rejectRun e).agenda = s.agenda := rfl
@[simp] theorem State.rejectRun_busData (s : State) (e : CmdError) :
    (s.rejectRun e).busData = s.busData := rfl
@[simp] theorem State.rejectRun_draws (s : State) (e : CmdError) :
    (s.rejectRun e).draws = s.draws := rfl

@[simp] theorem State.spoilRun_cmd (s : State) (e : CmdError) :
    (s.spoilRun e).cmd = s.cmd := rfl
@[simp] theorem State.spoilRun_operands (s : State) (e : CmdError) :
    (s.spoilRun e).operands = s.operands := rfl
@[simp] theorem State.spoilRun_results (s : State) (e : CmdError) :
    (s.spoilRun e).results = Results.free s.draws e.info := rfl
@[simp] theorem State.spoilRun_done (s : State) (e : CmdError) :
    (s.spoilRun e).done = s.done := rfl
@[simp] theorem State.spoilRun_error (s : State) (e : CmdError) :
    (s.spoilRun e).error = s.error := rfl
@[simp] theorem State.spoilRun_errcode (s : State) (e : CmdError) :
    (s.spoilRun e).errcode = s.errcode := rfl
@[simp] theorem State.spoilRun_irqEn (s : State) (e : CmdError) :
    (s.spoilRun e).irqEn = s.irqEn := rfl
@[simp] theorem State.spoilRun_irqStatus (s : State) (e : CmdError) :
    (s.spoilRun e).irqStatus = s.irqStatus := rfl
@[simp] theorem State.spoilRun_phase (s : State) (e : CmdError) :
    (s.spoilRun e).phase = s.phase := rfl
@[simp] theorem State.spoilRun_latch (s : State) (e : CmdError) :
    (s.spoilRun e).latch = s.latch := rfl
@[simp] theorem State.spoilRun_race (s : State) (e : CmdError) :
    (s.spoilRun e).race = s.race := rfl
@[simp] theorem State.spoilRun_mem (s : State) (e : CmdError) :
    (s.spoilRun e).mem = s.mem.scramble s.draws s.latch.operands.dstAddr.toNat s.latch.operands.dstCap.toNat := rfl
@[simp] theorem State.spoilRun_plat (s : State) (e : CmdError) :
    (s.spoilRun e).plat = s.plat := rfl
@[simp] theorem State.spoilRun_agenda (s : State) (e : CmdError) :
    (s.spoilRun e).agenda = s.agenda := rfl
@[simp] theorem State.spoilRun_busData (s : State) (e : CmdError) :
    (s.spoilRun e).busData = s.busData := rfl
@[simp] theorem State.spoilRun_draws (s : State) (e : CmdError) :
    (s.spoilRun e).draws = s.draws + 1 := rfl

@[simp] theorem State.spoilRace_cmd (s : State) :
    s.spoilRace.cmd = s.cmd := rfl
@[simp] theorem State.spoilRace_operands (s : State) :
    s.spoilRace.operands = s.operands := rfl
@[simp] theorem State.spoilRace_results (s : State) :
    s.spoilRace.results = Results.free s.draws (Config.freeWord s.draws 4) := rfl
@[simp] theorem State.spoilRace_done (s : State) :
    s.spoilRace.done = s.done := rfl
@[simp] theorem State.spoilRace_error (s : State) :
    s.spoilRace.error = s.error := rfl
@[simp] theorem State.spoilRace_errcode (s : State) :
    s.spoilRace.errcode = s.errcode := rfl
@[simp] theorem State.spoilRace_irqEn (s : State) :
    s.spoilRace.irqEn = s.irqEn := rfl
@[simp] theorem State.spoilRace_irqStatus (s : State) :
    s.spoilRace.irqStatus = s.irqStatus := rfl
@[simp] theorem State.spoilRace_phase (s : State) :
    s.spoilRace.phase = s.phase := rfl
@[simp] theorem State.spoilRace_latch (s : State) :
    s.spoilRace.latch = s.latch := rfl
@[simp] theorem State.spoilRace_race (s : State) :
    s.spoilRace.race = s.race := rfl
@[simp] theorem State.spoilRace_mem (s : State) :
    s.spoilRace.mem = if rangeCheck s.latch.operands = none then s.mem.scramble s.draws s.latch.operands.dstAddr.toNat s.latch.operands.dstCap.toNat else s.mem := rfl
@[simp] theorem State.spoilRace_plat (s : State) :
    s.spoilRace.plat = s.plat := rfl
@[simp] theorem State.spoilRace_agenda (s : State) :
    s.spoilRace.agenda = s.agenda := rfl
@[simp] theorem State.spoilRace_busData (s : State) :
    s.spoilRace.busData = s.busData := rfl
@[simp] theorem State.spoilRace_draws (s : State) :
    s.spoilRace.draws = s.draws + 1 := rfl

@[simp] theorem State.resetMachine_cmd (s : State) :
    s.resetMachine.cmd = 0 := rfl
@[simp] theorem State.resetMachine_operands (s : State) :
    s.resetMachine.operands = Operands.reset := rfl
@[simp] theorem State.resetMachine_results (s : State) :
    s.resetMachine.results = Results.reset := rfl
@[simp] theorem State.resetMachine_done (s : State) :
    s.resetMachine.done = false := rfl
@[simp] theorem State.resetMachine_error (s : State) :
    s.resetMachine.error = false := rfl
@[simp] theorem State.resetMachine_errcode (s : State) :
    s.resetMachine.errcode = 0 := rfl
@[simp] theorem State.resetMachine_irqEn (s : State) :
    s.resetMachine.irqEn = 0 := rfl
@[simp] theorem State.resetMachine_irqStatus (s : State) :
    s.resetMachine.irqStatus = 0 := rfl
@[simp] theorem State.resetMachine_phase (s : State) :
    s.resetMachine.phase = .idle := rfl
@[simp] theorem State.resetMachine_latch (s : State) :
    s.resetMachine.latch = s.latch := rfl
@[simp] theorem State.resetMachine_race (s : State) :
    s.resetMachine.race = false := rfl
@[simp] theorem State.resetMachine_mem (s : State) :
    s.resetMachine.mem = s.abortMemory := rfl
@[simp] theorem State.resetMachine_plat (s : State) :
    s.resetMachine.plat = s.plat := rfl
@[simp] theorem State.resetMachine_agenda (s : State) :
    s.resetMachine.agenda = s.agenda := rfl
@[simp] theorem State.resetMachine_busData (s : State) :
    s.resetMachine.busData = s.busData := rfl
@[simp] theorem State.resetMachine_draws (s : State) :
    s.resetMachine.draws = (match s.phase with | .idle => s.draws | .busy => s.draws + 1) := rfl

@[simp] theorem State.writeIrqEn_cmd (s : State) (v : Word) :
    (s.writeIrqEn v).cmd = s.cmd := rfl
@[simp] theorem State.writeIrqEn_operands (s : State) (v : Word) :
    (s.writeIrqEn v).operands = s.operands := rfl
@[simp] theorem State.writeIrqEn_results (s : State) (v : Word) :
    (s.writeIrqEn v).results = s.results := rfl
@[simp] theorem State.writeIrqEn_done (s : State) (v : Word) :
    (s.writeIrqEn v).done = s.done := rfl
@[simp] theorem State.writeIrqEn_error (s : State) (v : Word) :
    (s.writeIrqEn v).error = s.error := rfl
@[simp] theorem State.writeIrqEn_errcode (s : State) (v : Word) :
    (s.writeIrqEn v).errcode = s.errcode := rfl
@[simp] theorem State.writeIrqEn_irqEn (s : State) (v : Word) :
    (s.writeIrqEn v).irqEn = v.setWidth 2 := rfl
@[simp] theorem State.writeIrqEn_irqStatus (s : State) (v : Word) :
    (s.writeIrqEn v).irqStatus = s.irqStatus := rfl
@[simp] theorem State.writeIrqEn_phase (s : State) (v : Word) :
    (s.writeIrqEn v).phase = s.phase := rfl
@[simp] theorem State.writeIrqEn_latch (s : State) (v : Word) :
    (s.writeIrqEn v).latch = s.latch := rfl
@[simp] theorem State.writeIrqEn_race (s : State) (v : Word) :
    (s.writeIrqEn v).race = s.race := rfl
@[simp] theorem State.writeIrqEn_mem (s : State) (v : Word) :
    (s.writeIrqEn v).mem = s.mem := rfl
@[simp] theorem State.writeIrqEn_plat (s : State) (v : Word) :
    (s.writeIrqEn v).plat = s.plat := rfl
@[simp] theorem State.writeIrqEn_agenda (s : State) (v : Word) :
    (s.writeIrqEn v).agenda = s.agenda := rfl
@[simp] theorem State.writeIrqEn_busData (s : State) (v : Word) :
    (s.writeIrqEn v).busData = s.busData := rfl
@[simp] theorem State.writeIrqEn_draws (s : State) (v : Word) :
    (s.writeIrqEn v).draws = s.draws := rfl

@[simp] theorem State.writeIrqStatus_cmd (s : State) (v : Word) :
    (s.writeIrqStatus v).cmd = s.cmd := rfl
@[simp] theorem State.writeIrqStatus_operands (s : State) (v : Word) :
    (s.writeIrqStatus v).operands = s.operands := rfl
@[simp] theorem State.writeIrqStatus_results (s : State) (v : Word) :
    (s.writeIrqStatus v).results = s.results := rfl
@[simp] theorem State.writeIrqStatus_done (s : State) (v : Word) :
    (s.writeIrqStatus v).done = s.done := rfl
@[simp] theorem State.writeIrqStatus_error (s : State) (v : Word) :
    (s.writeIrqStatus v).error = s.error := rfl
@[simp] theorem State.writeIrqStatus_errcode (s : State) (v : Word) :
    (s.writeIrqStatus v).errcode = s.errcode := rfl
@[simp] theorem State.writeIrqStatus_irqEn (s : State) (v : Word) :
    (s.writeIrqStatus v).irqEn = s.irqEn := rfl
@[simp] theorem State.writeIrqStatus_irqStatus (s : State) (v : Word) :
    (s.writeIrqStatus v).irqStatus = s.irqStatus &&& ~~~(v.setWidth 2) := rfl
@[simp] theorem State.writeIrqStatus_phase (s : State) (v : Word) :
    (s.writeIrqStatus v).phase = s.phase := rfl
@[simp] theorem State.writeIrqStatus_latch (s : State) (v : Word) :
    (s.writeIrqStatus v).latch = s.latch := rfl
@[simp] theorem State.writeIrqStatus_race (s : State) (v : Word) :
    (s.writeIrqStatus v).race = s.race := rfl
@[simp] theorem State.writeIrqStatus_mem (s : State) (v : Word) :
    (s.writeIrqStatus v).mem = s.mem := rfl
@[simp] theorem State.writeIrqStatus_plat (s : State) (v : Word) :
    (s.writeIrqStatus v).plat = s.plat := rfl
@[simp] theorem State.writeIrqStatus_agenda (s : State) (v : Word) :
    (s.writeIrqStatus v).agenda = s.agenda := rfl
@[simp] theorem State.writeIrqStatus_busData (s : State) (v : Word) :
    (s.writeIrqStatus v).busData = s.busData := rfl
@[simp] theorem State.writeIrqStatus_draws (s : State) (v : Word) :
    (s.writeIrqStatus v).draws = s.draws := rfl

@[simp] theorem State.hostMemRead_cmd (s : State) (a n : Nat) :
    (s.hostMemRead a n).cmd = s.cmd := rfl
@[simp] theorem State.hostMemRead_operands (s : State) (a n : Nat) :
    (s.hostMemRead a n).operands = s.operands := rfl
@[simp] theorem State.hostMemRead_results (s : State) (a n : Nat) :
    (s.hostMemRead a n).results = s.results := rfl
@[simp] theorem State.hostMemRead_done (s : State) (a n : Nat) :
    (s.hostMemRead a n).done = s.done := rfl
@[simp] theorem State.hostMemRead_error (s : State) (a n : Nat) :
    (s.hostMemRead a n).error = s.error := rfl
@[simp] theorem State.hostMemRead_errcode (s : State) (a n : Nat) :
    (s.hostMemRead a n).errcode = s.errcode := rfl
@[simp] theorem State.hostMemRead_irqEn (s : State) (a n : Nat) :
    (s.hostMemRead a n).irqEn = s.irqEn := rfl
@[simp] theorem State.hostMemRead_irqStatus (s : State) (a n : Nat) :
    (s.hostMemRead a n).irqStatus = s.irqStatus := rfl
@[simp] theorem State.hostMemRead_phase (s : State) (a n : Nat) :
    (s.hostMemRead a n).phase = s.phase := rfl
@[simp] theorem State.hostMemRead_latch (s : State) (a n : Nat) :
    (s.hostMemRead a n).latch = s.latch := rfl
@[simp] theorem State.hostMemRead_race (s : State) (a n : Nat) :
    (s.hostMemRead a n).race = (s.race || s.touchesWriteRegion a n) := rfl
@[simp] theorem State.hostMemRead_mem (s : State) (a n : Nat) :
    (s.hostMemRead a n).mem = s.mem := rfl
@[simp] theorem State.hostMemRead_plat (s : State) (a n : Nat) :
    (s.hostMemRead a n).plat = s.plat := rfl
@[simp] theorem State.hostMemRead_agenda (s : State) (a n : Nat) :
    (s.hostMemRead a n).agenda = s.agenda := rfl
@[simp] theorem State.hostMemRead_busData (s : State) (a n : Nat) :
    (s.hostMemRead a n).busData = (List.range n).map fun i => s.hostByte (a + i) := rfl
@[simp] theorem State.hostMemRead_draws (s : State) (a n : Nat) :
    (s.hostMemRead a n).draws = if s.busy then s.draws + 1 else s.draws := rfl

@[simp] theorem State.hostMemWrite_cmd (s : State) (a : Nat) (d : List Byte) :
    (s.hostMemWrite a d).cmd = s.cmd := rfl
@[simp] theorem State.hostMemWrite_operands (s : State) (a : Nat) (d : List Byte) :
    (s.hostMemWrite a d).operands = s.operands := rfl
@[simp] theorem State.hostMemWrite_results (s : State) (a : Nat) (d : List Byte) :
    (s.hostMemWrite a d).results = s.results := rfl
@[simp] theorem State.hostMemWrite_done (s : State) (a : Nat) (d : List Byte) :
    (s.hostMemWrite a d).done = s.done := rfl
@[simp] theorem State.hostMemWrite_error (s : State) (a : Nat) (d : List Byte) :
    (s.hostMemWrite a d).error = s.error := rfl
@[simp] theorem State.hostMemWrite_errcode (s : State) (a : Nat) (d : List Byte) :
    (s.hostMemWrite a d).errcode = s.errcode := rfl
@[simp] theorem State.hostMemWrite_irqEn (s : State) (a : Nat) (d : List Byte) :
    (s.hostMemWrite a d).irqEn = s.irqEn := rfl
@[simp] theorem State.hostMemWrite_irqStatus (s : State) (a : Nat) (d : List Byte) :
    (s.hostMemWrite a d).irqStatus = s.irqStatus := rfl
@[simp] theorem State.hostMemWrite_phase (s : State) (a : Nat) (d : List Byte) :
    (s.hostMemWrite a d).phase = s.phase := rfl
@[simp] theorem State.hostMemWrite_latch (s : State) (a : Nat) (d : List Byte) :
    (s.hostMemWrite a d).latch = s.latch := rfl
@[simp] theorem State.hostMemWrite_race (s : State) (a : Nat) (d : List Byte) :
    (s.hostMemWrite a d).race = (s.race || s.touchesFootprint a d.length) := rfl
@[simp] theorem State.hostMemWrite_mem (s : State) (a : Nat) (d : List Byte) :
    (s.hostMemWrite a d).mem = s.mem.writeBytes a (s.storedBytes a d) := rfl
@[simp] theorem State.hostMemWrite_plat (s : State) (a : Nat) (d : List Byte) :
    (s.hostMemWrite a d).plat = s.plat := rfl
@[simp] theorem State.hostMemWrite_agenda (s : State) (a : Nat) (d : List Byte) :
    (s.hostMemWrite a d).agenda = s.agenda := rfl
@[simp] theorem State.hostMemWrite_busData (s : State) (a : Nat) (d : List Byte) :
    (s.hostMemWrite a d).busData = s.busData := rfl
@[simp] theorem State.hostMemWrite_draws (s : State) (a : Nat) (d : List Byte) :
    (s.hostMemWrite a d).draws = if s.busy then s.draws + 1 else s.draws := rfl

end Sys2Proof.Machine
end

