-- ==== Sys2Proof/Laws/Bus.lean ====
section
/-! SUPPORT. What a host's turn does: where an access is routed, and what a register turn comes down to. -/
namespace Sys2Proof.Machine

theorem regBase_add {p : Config.Platform} (hp : p.regBaseLegal = true) {off : Nat} (ho : off < 256) :
    (p.regBase + BitVec.ofNat 32 off).toNat = p.regBase.toNat + off ∧ p.regBase.toNat + 256 ≤ 2 ^ 32 := by
  simp only [Config.Platform.regBaseLegal, decide_eq_true_eq] at hp
  have := p.regBase.isLt
  rw [BitVec.toNat_add, BitVec.toNat_ofNat]
  omega

/-- An aligned word of the window is routed to its register (R20, R67). -/
theorem route_register {p : Config.Platform} (hp : p.regBaseLegal = true) {off : Nat} (h4 : off % 4 = 0)
    (ho : off < 256) : route p (p.regBase + BitVec.ofNat 32 off).toNat 4 = .register off := by
  obtain ⟨ha, hb⟩ := regBase_add hp ho
  rw [route, ha, if_neg (by omega), if_pos (by omega), if_pos ⟨rfl, by omega, by omega⟩, Nat.add_sub_cancel_left]

/-- A register write turn is the write of its word (R96, R64). -/
theorem takeTurn_write {s : State} (hp : s.plat.regBaseLegal = true) {off : Nat} (h4 : off % 4 = 0) (ho : off < 256)
    (v : Word) : takeTurn (writeTurn s.plat off v) s = .next (s.writeOffset off v) := by
  have hv : BitVec.ofNat 32 (leValue (leBytes 4 v.toNat)) = v := by
    rw [leValue_leBytes]
    apply BitVec.eq_of_toNat_eq
    have := v.isLt
    simp only [BitVec.toNat_ofNat]
    omega
  simp only [writeTurn, takeTurn, State.hostWrite, leBytes_length, route_register hp h4 ho, hv]

/-- A register read turn returns the four lanes of the register's word (R96, R64). -/
theorem takeTurn_read {s : State} (hp : s.plat.regBaseLegal = true) {off : Nat} (h4 : off % 4 = 0) (ho : off < 256) :
    takeTurn (readTurn s.plat off) s = .next { s with busData := leBytes 4 (s.readOffset off).toNat } := by
  simp only [readTurn, takeTurn, State.hostRead, route_register hp h4 ho]

/-- A memory access ends inside the address space. -/
theorem route_memory_le {p : Config.Platform} {a n : Nat} (h : route p a n = .memory) : a + n ≤ 2 ^ 32 := by
  unfold route at h
  split at h
  · simp at h
  · omega

@[simp] theorem storedBytes_length (s : State) (a : Nat) (bs : List Byte) : (s.storedBytes a bs).length = bs.length := by
  induction bs generalizing a with
  | nil => rfl
  | cons b bs ih => simp [State.storedBytes, ih]

theorem storedBytes_getElem (s : State) (a k : Nat) (bs : List Byte) (h : k < bs.length) :
    (s.storedBytes a bs)[k]'(by simpa using h) = s.storedByte (a + k) bs[k] := by
  induction bs generalizing a k with
  | nil => simp at h
  | cons b bs ih =>
    cases k with
    | zero => rfl
    | succ k =>
      simp only [State.storedBytes, List.getElem_cons_succ]
      rw [ih (a + 1) k (by simpa using h), Nat.add_assoc, Nat.add_comm 1 k]

/-- Some address of a range satisfies a test exactly when some offset below its length does. -/
theorem any_range'_iff (p : Nat → Bool) (a n : Nat) :
    (List.range' a n).any p = true ↔ ∃ k, k < n ∧ p (a + k) = true := by
  simp only [List.any_eq_true, List.mem_range'_1]
  constructor
  · rintro ⟨x, hx, hp⟩
    exact ⟨x - a, by omega, by rwa [Nat.add_sub_cancel' hx.1]⟩
  · rintro ⟨k, hk, hp⟩
    exact ⟨a + k, by omega, hp⟩

/-- When a host write or read of a running command's memory sets RACE (R68 (a), R251). -/
theorem touchesFootprint_iff {s : State} (h : s.phase = .busy) (a n : Nat) :
    s.touchesFootprint a n = true ↔ ∃ k, k < n ∧ s.latch.operands.inFootprint (a + k) = true := by
  rw [← any_range'_iff]
  simp only [State.touchesFootprint, State.busy, h, beq_self_eq_true, Bool.true_and]

theorem touchesWriteRegion_iff {s : State} (h : s.phase = .busy) (a n : Nat) :
    s.touchesWriteRegion a n = true ↔ ∃ k, k < n ∧ s.latch.operands.inWriteRegion (a + k) = true := by
  rw [← any_range'_iff]
  simp only [State.touchesWriteRegion, State.busy, h, beq_self_eq_true, Bool.true_and]

/-- In IDLE no access touches a command's regions. -/
theorem touchesFootprint_idle {s : State} (h : s.phase = .idle) (a n : Nat) : s.touchesFootprint a n = false := by
  simp [State.touchesFootprint, State.busy, h]

theorem touchesWriteRegion_idle {s : State} (h : s.phase = .idle) (a n : Nat) : s.touchesWriteRegion a n = false := by
  simp [State.touchesWriteRegion, State.busy, h]

/-- The register at each offset of the window (R23). -/
theorem regAt_offset (r : RegName) : regAt r.offset = some r := by cases r <;> rfl

/-- A read at a register's offset is a read of that register. -/
theorem State.readOffset_offset (s : State) (r : RegName) : s.readOffset r.offset = s.readReg r := by
  simp only [State.readOffset, regAt_offset]

/-- A write at a register's offset is a write of that register. -/
theorem State.writeOffset_offset (s : State) (r : RegName) (v : Word) : s.writeOffset r.offset v = s.writeReg r v := by
  simp only [State.writeOffset, regAt_offset]

theorem regAt_eq_some {off : Nat} {r : RegName} (h : regAt off = some r) : r.offset = off := by
  unfold regAt at h
  split at h <;> first | (cases h; rfl) | simp at h

end Sys2Proof.Machine
end

