-- ==== Sys2Proof/Laws/Codec.lean ====
section
/-! SUPPORT. What the shared frame operations answer: the frames of the source region, the byte-wise delta, the sizes of
the planes and of a record. -/
namespace Sys2Proof.Machine

/-! ## Frames of the source region (spec/43_pipeline.md R211) -/

@[simp] theorem framesOf_length (o : Operands) (m : Memory) (fin : Nat) :
    (framesOf o m fin).length = o.srcLen.toNat / fin := by
  simp [framesOf, Operands.frameCount]

/-- The frames a command cuts are the whole frames of the latched source region. -/
theorem framesOf_latched (s : State) (fin : Nat) : framesOf s.latch.operands s.mem fin = s.sourceFrames fin := rfl

/-- Every frame of the source region has the frame length. -/
theorem length_of_mem_framesOf {o : Operands} {m : Memory} {fin : Nat} {f : Frame} (h : f ∈ framesOf o m fin) :
    f.length = fin := by
  obtain ⟨i, -, rfl⟩ := List.mem_map.mp h
  simp

/-- The whole source region, as RLE_ENC and RLE_DEC read it. -/
theorem readBytes_latched (s : State) :
    s.mem.readBytes s.latch.operands.srcAddr.toNat s.latch.operands.srcLen.toNat = s.sourceBytes := rfl

/-! ## Delta frames (spec/42_delta_rle_codec.md R171, R174) -/

theorem subFrame_length {cur prev : Frame} (h : cur.length = prev.length) : (subFrame cur prev).length = cur.length := by
  simp [subFrame, h]

theorem addFrame_length {d prev : Frame} (h : d.length = prev.length) : (addFrame d prev).length = d.length := by
  simp [addFrame, h]

theorem subFrame_getD {cur prev : Frame} {j : Nat} (hc : j < cur.length) (hp : j < prev.length) :
    (subFrame cur prev).getD j 0 = cur.getD j 0 - prev.getD j 0 := by
  simp [subFrame, List.getD_eq_getElem?_getD, hc, hp]

theorem addFrame_getD {d prev : Frame} {j : Nat} (hd : j < d.length) (hp : j < prev.length) :
    (addFrame d prev).getD j 0 = d.getD j 0 + prev.getD j 0 := by
  simp [addFrame, List.getD_eq_getElem?_getD, hd, hp]

@[simp] theorem deltaAfter_length (prev : Frame) (fs : List Frame) : (deltaAfter prev fs).length = fs.length := by
  induction fs generalizing prev with
  | nil => rfl
  | cons f fs ih => simp [deltaAfter, ih]

@[simp] theorem sumAfter_length (prev : Frame) (ds : List Frame) : (sumAfter prev ds).length = ds.length := by
  induction ds generalizing prev with
  | nil => rfl
  | cons d ds ih => simp [sumAfter, ih]

@[simp] theorem deltaEncodeSeq_length (fs : List Frame) : (deltaEncodeSeq fs).length = fs.length := by
  cases fs <;> simp [deltaEncodeSeq]

@[simp] theorem deltaDecodeSeq_length (ds : List Frame) : (deltaDecodeSeq ds).length = ds.length := by
  cases ds <;> simp [deltaDecodeSeq]

/-! ## Run-length pairs (R181, R186) -/

/-- The loop goes on inside a run shorter than 255. -/
theorem rleRun_same {v : Byte} {c : Nat} (h : c < 255) (s : List Byte) : rleRun v c (v :: s) = rleRun v (c + 1) s := by
  simp [rleRun, h]

/-- The loop closes a run at another byte, or at 255. -/
theorem rleRun_close {v x : Byte} {c : Nat} (h : ¬ (x = v ∧ c < 255)) (s : List Byte) :
    rleRun v c (x :: s) = BitVec.ofNat 8 c :: v :: rleEncode (x :: s) := by
  simp [rleRun, rleEncode, h]

/-- A zero count stops the decoder. -/
theorem rleDecodeFrom_zero (off : Nat) (v : Byte) (t : List Byte) :
    rleDecodeFrom off (0 :: v :: t) = { out := [], bad := some off } := by
  simp [rleDecodeFrom]

/-- A count that is not zero appends its run. -/
theorem rleDecodeFrom_pair {c : Byte} (h : c ≠ 0) (off : Nat) (v : Byte) (t : List Byte) :
    rleDecodeFrom off (c :: v :: t)
      = { out := List.replicate c.toNat v ++ (rleDecodeFrom (off + 2) t).out
          bad := (rleDecodeFrom (off + 2) t).bad } := by
  rw [rleDecodeFrom, if_neg h]

/-! ## Sizes -/

@[simp] theorem lumaPlane_length (f : Frame) (w h : Nat) : (lumaPlane f w h).length = w * h := by simp [lumaPlane]

@[simp] theorem chromaPlane_length (c : Byte → Byte → Byte → Byte) (f : Frame) (w h : Nat) :
    (chromaPlane c f w h).length = h / 2 * (w / 2) := by
  simp [chromaPlane, List.length_flatMap]

@[simp] theorem pixelYuv_length (w h : Nat) (f : Frame) (j k : Nat) : (pixelYuv w h f j k).length = 3 := rfl

/-- A record is its header of eight bytes and its body (R198). -/
@[simp] theorem drleRecord_length (kind : Byte) (body : List Byte) :
    (drleRecord kind body).length = 8 + body.length := by
  simp [drleRecord]; omega

/-- Byte `k` of part `i` of a concatenation whose parts all have length `n`. -/
theorem getD_flatMap_parts {f : Frame → Frame} {n : Nat} {fs : List Frame} (hf : ∀ x ∈ fs, (f x).length = n) {i k : Nat}
    (hi : i < fs.length) (hk : k < n) : (fs.flatMap f).getD (i * n + k) 0 = (f fs[i]).getD k 0 := by
  induction fs generalizing i with
  | nil => simp at hi
  | cons x fs ih =>
    have hx := hf x (by simp)
    rw [List.flatMap_cons]
    cases i with
    | zero => simp only [Nat.zero_mul, Nat.zero_add]; rw [List.getD_append _ _ _ _ (by omega)]; rfl
    | succ i =>
      have hn : (i + 1) * n + k = n + (i * n + k) := by rw [Nat.succ_mul]; omega
      rw [hn, List.getD_append_right _ _ _ _ (by omega), hx, Nat.add_sub_cancel_left]
      exact ih (fun y hy => hf y (by simp [hy])) (by simpa using hi)

end Sys2Proof.Machine
end

