-- ==== Sys2Proof/Laws/PerInstr.lean ====
section
/-! SUPPORT. One lemma per command about its encoding (spec/30_encoding.md R90 to R95). -/
namespace Sys2Proof.Laws.Encoding

/-- A command is well formed, its word is a legal command word with RSVD zero, and the decoder reads it back, from the
word and from its four bus lanes. -/
def Statement (i : Instr) : Prop :=
  i.wf = true ∧ commandWordLegal (encode i) = true ∧ rsvdField (encode i) = 0 ∧ opcodeField (encode i) = i.opcode
    ∧ decode (encode i) = .ok i ∧ decodeTableWord 32 (encode i).toNat = some i

theorem cscEnc : Statement .cscEnc := by unfold Statement; decide
theorem cscDec : Statement .cscDec := by unfold Statement; decide
theorem deltaEnc : Statement .deltaEnc := by unfold Statement; decide
theorem deltaDec : Statement .deltaDec := by unfold Statement; decide
theorem rleEnc : Statement .rleEnc := by unfold Statement; decide
theorem rleDec : Statement .rleDec := by unfold Statement; decide
theorem drleEnc : Statement .drleEnc := by unfold Statement; decide

end Sys2Proof.Laws.Encoding
end

