-- ==== Sys2Proof/Laws/Run.lean ====
section
/-! SUPPORT. What a command's run and its completion can do, said once: the prechecks, the execution errors, the three
kinds of completion and their frame. -/
namespace Sys2Proof.Machine

/-- Every command's meaning is the completion with the outcome of its run. -/
theorem exec_eq (i : Instr) (s : State) : exec i s = .next (s.complete (verdictOf i s)) := by
  cases i <;> rfl

/-! ## Prechecks -/

theorem dimIllegal_eq_false_iff (p : Config.Platform) (d : Word) : dimIllegal p d = false ↔ DimLegal p d := by
  simp only [dimIllegal, DimLegal, Bool.or_eq_false_iff, decide_eq_false_iff_not]
  omega

theorem geometryOf_eq_none_iff (i : Instr) (s : State) : geometryOf i s = none ↔ GeometryPasses i s := by
  cases i <;>
    simp only [geometryOf, geometryCsc, geometryDelta, GeometryPasses, ← dimIllegal_eq_false_iff] <;>
    (repeat' split) <;> simp_all

theorem rangeCheck_eq_none_iff (o : Operands) : rangeCheck o = none ↔ RangePasses o := by
  simp only [rangeCheck]
  repeat' split
  all_goals simp only [reduceCtorEq, false_iff, true_iff]
  all_goals simp only [Operands.srcEnd, Operands.dstEnd, RangePasses] at *
  all_goals omega

theorem overlaps_eq_false_iff (o : Operands) : overlaps o = false ↔ DisjointRegions o := by
  simp only [overlaps, DisjointRegions, Bool.and_eq_false_iff, decide_eq_false_iff_not]
  simp only [Operands.srcEnd, Operands.dstEnd]
  omega

theorem oddLength_eq_none_iff (o : Operands) : oddLength o = none ↔ o.srcLen.toNat % 2 = 0 := by
  simp only [oddLength]
  split
  · simp only [reduceCtorEq, false_iff]; omega
  · simp only [true_iff]; omega

theorem lastCheckOf_eq_none_iff (i : Instr) (s : State) : lastCheckOf i s = none ↔ LengthPasses i s := by
  cases i <;> simp [lastCheckOf, LengthPasses, oddLength_eq_none_iff]

theorem prechecks_eq_none_iff (g : Option Nat) (l : Option CmdError) (o : Operands) :
    prechecks g l o = none ↔ g = none ∧ RangePasses o ∧ DisjointRegions o ∧ l = none := by
  rw [← rangeCheck_eq_none_iff, ← overlaps_eq_false_iff]
  unfold prechecks
  cases g with
  | some g => simp
  | none =>
    cases hr : rangeCheck o with
    | some r => simp
    | none => cases ho : overlaps o <;> simp

/-- The prechecks of a command, in the terms of the statements. -/
theorem prechecksOf_eq_none_iff (i : Instr) (s : State) :
    prechecks (geometryOf i s) (lastCheckOf i s) s.latch.operands = none ↔ PrechecksPass i s := by
  rw [prechecks_eq_none_iff, geometryOf_eq_none_iff, lastCheckOf_eq_none_iff]

/-- The order of the checks (R114), one equation each. -/
theorem prechecks_geometry (g : Nat) (l : Option CmdError) (o : Operands) :
    prechecks (some g) l o = some (.geometry g) := rfl

theorem prechecks_source {l : Option CmdError} {o : Operands} (h : o.srcAddr.toNat + o.srcLen.toNat > 2 ^ 32) :
    prechecks none l o = some (.range 1) := by
  have h' : rangeCheck o = some 1 := if_pos h
  unfold prechecks
  rw [h']

theorem prechecks_destination {l : Option CmdError} {o : Operands} (h : o.srcAddr.toNat + o.srcLen.toNat ≤ 2 ^ 32)
    (h' : o.dstAddr.toNat + o.dstCap.toNat > 2 ^ 32) : prechecks none l o = some (.range 2) := by
  have h1 : ¬ o.srcEnd > 2 ^ 32 := Nat.not_lt.2 h
  have h2 : o.dstEnd > 2 ^ 32 := h'
  unfold prechecks rangeCheck
  rw [if_neg h1, if_pos h2]

theorem prechecks_inRange {l : Option CmdError} {o : Operands} (h : RangePasses o) :
    prechecks none l o = if overlaps o then some .overlap else l := by
  unfold prechecks
  rw [(rangeCheck_eq_none_iff o).2 h]

/-! ## Execution errors -/

theorem mem_touched (o : Operands) (r : Run) (a : Nat) :
    a ∈ touched o r ↔
      (o.srcAddr.toNat ≤ a ∧ a < o.srcAddr.toNat + r.readLen)
      ∨ (o.dstAddr.toNat ≤ a ∧ a < o.dstAddr.toNat + min r.out.length o.dstCap.toNat) := by
  simp only [touched, List.mem_append, List.mem_range'_1]

/-- Exactly the applicable errors of R121. -/
theorem mem_execErrors (p : Config.Platform) (o : Operands) (r : Run) (e : CmdError) :
    e ∈ execErrors p o r ↔
      (∃ off, r.bad = some off ∧ e = .rleMalformed off)
      ∨ (o.dstCap.toNat < r.out.length ∧ e = .capacity (min r.out.length (2 ^ 32 - 1)))
      ∨ ∃ a, a ∈ touched o r ∧ engineAnswered p a = false ∧ e = .bus a := by
  simp only [execErrors, List.mem_append, List.mem_map, List.mem_filter, Bool.not_eq_true', or_assoc]
  refine or_congr ?_ (or_congr ?_ ?_)
  · cases r.bad <;> simp
  · split <;> simp_all
  · constructor
    · rintro ⟨a, ⟨h1, h2⟩, rfl⟩; exact ⟨a, h1, h2, rfl⟩
    · rintro ⟨a, h1, h2, rfl⟩; exact ⟨a, ⟨h1, h2⟩, rfl⟩

theorem answered_iff (p : Config.Platform) (a n : Nat) :
    Answered p a n ↔ ∀ x, a ≤ x → x < a + n → engineAnswered p x = true := by
  constructor
  · intro h x h1 h2
    have := h (x - a) (by omega)
    rwa [show a + (x - a) = x by omega] at this
  · intro h k hk
    exact h (a + k) (by omega) (by omega)

/-- No execution error applies exactly when nothing is malformed, the output fits and every access is answered. -/
theorem execErrors_eq_nil_iff (p : Config.Platform) (o : Operands) (r : Run) :
    execErrors p o r = [] ↔
      r.bad = none ∧ r.out.length ≤ o.dstCap.toNat ∧ Answered p o.srcAddr.toNat r.readLen
        ∧ Answered p o.dstAddr.toNat r.out.length := by
  simp only [List.eq_nil_iff_forall_not_mem, mem_execErrors, mem_touched, answered_iff]
  constructor
  · intro h
    have h1 : r.bad = none := by
      cases hb : r.bad with
      | none => rfl
      | some off => exact absurd (Or.inl ⟨off, hb, rfl⟩) (h (.rleMalformed off))
    have h2 : r.out.length ≤ o.dstCap.toNat := by
      by_contra hc
      exact h _ (Or.inr (Or.inl ⟨by omega, rfl⟩))
    refine ⟨h1, h2, fun x hx hx' => ?_, fun x hx hx' => ?_⟩
    · by_contra hc
      exact h (.bus x) (Or.inr (Or.inr ⟨x, Or.inl ⟨hx, hx'⟩, by simpa using hc, rfl⟩))
    · by_contra hc
      exact h (.bus x) (Or.inr (Or.inr ⟨x, Or.inr ⟨hx, by rw [Nat.min_eq_left h2]; exact hx'⟩, by simpa using hc, rfl⟩))
  · rintro ⟨h1, h2, h3, h4⟩ e (⟨off, hb, -⟩ | ⟨hc, -⟩ | ⟨a, ha, hn, -⟩)
    · simp [h1] at hb
    · omega
    · rw [Nat.min_eq_left h2] at ha
      rcases ha with ⟨ha, ha'⟩ | ⟨ha, ha'⟩
      · simp [h3 a ha ha'] at hn
      · simp [h4 a ha ha'] at hn

theorem drawError_mem (n : Nat) (e : CmdError) (es : List CmdError) : drawError n e es ∈ e :: es := by
  cases es with
  | nil => simp [drawError]
  | cons f fs =>
    have h : Config.freeChoice n % ((f :: fs).length + 1) < (e :: f :: fs).length := Nat.mod_lt _ (by simp)
    simp only [drawError, List.getD_eq_getElem?_getD, List.getElem?_eq_getElem h, Option.getD_some]
    exact List.getElem_mem h

/-! ## The outcome of a run -/

/-- The three outcomes of a run (R114), each with what it takes. -/
theorem verdictOf_cases (i : Instr) (s : State) :
    (¬ PrechecksPass i s ∧ ∃ e, prechecks (geometryOf i s) (lastCheckOf i s) s.latch.operands = some e
        ∧ verdictOf i s = .pre e)
    ∨ (PrechecksPass i s ∧ execErrors s.plat s.latch.operands (runOf i s.latch.operands s.mem) = []
        ∧ verdictOf i s = .ok (runOf i s.latch.operands s.mem))
    ∨ (PrechecksPass i s ∧ ∃ e, e ∈ execErrors s.plat s.latch.operands (runOf i s.latch.operands s.mem)
        ∧ verdictOf i s = .exec e) := by
  rw [← prechecksOf_eq_none_iff]
  simp only [verdictOf, execute]
  cases hp : prechecks (geometryOf i s) (lastCheckOf i s) s.latch.operands with
  | some e => exact .inl ⟨by simp, e, rfl, rfl⟩
  | none =>
    cases he : execErrors s.plat s.latch.operands (runOf i s.latch.operands s.mem) with
    | nil => exact .inr (.inl ⟨rfl, rfl, rfl⟩)
    | cons e es => exact .inr (.inr ⟨rfl, _, drawError_mem s.draws e es, rfl⟩)

/-- The error of a failed precheck in its fixed order (R114, R226 (a)). -/
theorem verdictOf_pre {i : Instr} {s : State} {e : CmdError}
    (h : prechecks (geometryOf i s) (lastCheckOf i s) s.latch.operands = some e) : verdictOf i s = .pre e := by
  simp only [verdictOf, execute, h]

/-- The outcome when nothing goes wrong. -/
theorem verdictOf_ok {i : Instr} {s : State} (h : PrechecksPass i s)
    (he : execErrors s.plat s.latch.operands (runOf i s.latch.operands s.mem) = []) :
    verdictOf i s = .ok (runOf i s.latch.operands s.mem) := by
  simp only [verdictOf, execute, (prechecksOf_eq_none_iff i s).2 h, he]

/-! ## Completion -/

theorem CmdError.code_ne_zero (e : CmdError) : e.code ≠ 0 := by cases e <;> simp [CmdError.code]

theorem CmdError.code_le_seven (e : CmdError) : e.code.toNat ≤ 7 := by cases e <;> simp [CmdError.code]

theorem raceCode_le_seven (n : Nat) : (raceCode n).toNat ≤ 7 := by
  simp only [raceCode, BitVec.toNat_ofNat]
  omega

theorem finishFlags_error (s : State) {c : BitVec 4} (hc : c ≠ 0) :
    s.finishFlags c = { s with
      phase := .idle, done := true, error := true, errcode := c, irqStatus := s.irqStatus ||| 0b11 } := by
  have h : (c != 0) = true := by simpa using hc
  simp only [State.finishFlags, if_neg hc, h]

theorem complete_ok {s : State} (hr : s.race = false) {r : Run} :
    SucceedsWith s (s.complete (.ok r)) r.out r.frames r.discard r.payload := by
  have h : s.complete (.ok r) = (s.commit r).finishFlags 0 := by simp [State.complete, hr]
  rw [h]
  refine ⟨fun k hk => ?_, fun a ha => ?_, rfl⟩
  · simp [State.byteAt, Memory.read_writeBytes_inside _ hk, hk]
  · exact Memory.read_writeBytes_outside s.mem ha

theorem complete_pre {s : State} (hr : s.race = false) (e : CmdError) :
    RejectedWith s (s.complete (.pre e)) e.code e.info := by
  have h : s.complete (.pre e) = (s.rejectRun e).finishFlags e.code := by simp [State.complete, hr]
  rw [h, RejectedWith, finishFlags_error _ e.code_ne_zero]
  rfl

theorem outside_of_inWriteRegion {o : Operands} {a : Nat} (h : o.inWriteRegion a = false) :
    a < o.dstAddr.toNat ∨ o.dstAddr.toNat + o.dstCap.toNat ≤ a := by
  simp only [Operands.inWriteRegion, Bool.and_eq_false_iff, decide_eq_false_iff_not] at h
  simp only [Operands.dstEnd] at h
  omega

theorem complete_exec {s : State} (hr : s.race = false) (e : CmdError) :
    SpoiledWith s (s.complete (.exec e)) e.code e.info := by
  have h : s.complete (.exec e) = (s.spoilRun e).finishFlags e.code := by simp [State.complete, hr]
  rw [h]
  refine ⟨fun a ha => Memory.read_scramble_outside s.mem (outside_of_inWriteRegion ha), ?_⟩
  rw [finishFlags_error _ e.code_ne_zero]
  rfl

/-- What every completion does to the fields it does not compute, whatever the outcome (R126). -/
theorem complete_frame (s : State) (v : Verdict) :
    s.complete v = { s with
      results := (s.complete v).results, done := true, error := (s.complete v).errcode != 0
      errcode := (s.complete v).errcode, phase := .idle
      irqStatus := s.irqStatus ||| (if (s.complete v).errcode = 0 then 0b01 else 0b11)
      mem := (s.complete v).mem, draws := (s.complete v).draws } := by
  simp only [State.complete]
  split
  · rfl
  · cases v <;> rfl

/-- Completions produce the codes 0 to 7 only (R222). -/
theorem complete_errcode_le_seven (s : State) (v : Verdict) : (s.complete v).errcode.toNat ≤ 7 := by
  simp only [State.complete]
  split
  · simpa using raceCode_le_seven s.draws
  · cases v <;> simp [CmdError.code_le_seven]

/-- A completion changes no byte outside the write region, given that a successful output fits (R70, R227). -/
theorem complete_outside (s : State) (v : Verdict) (hv : ∀ r, v = .ok r → r.out.length ≤ s.latch.operands.dstCap.toNat)
    {a : Nat} (ha : s.latch.operands.inWriteRegion a = false) : (s.complete v).byteAt a = s.byteAt a := by
  have h := outside_of_inWriteRegion ha
  simp only [State.complete, State.byteAt]
  split
  · simp only [State.finishFlags_mem, State.spoilRace_mem]
    split
    · exact Memory.read_scramble_outside _ h
    · rfl
  · cases v with
    | ok r =>
      have := hv r rfl
      exact Memory.read_writeBytes_outside _ (by omega)
    | pre e => rfl
    | exec e => exact Memory.read_scramble_outside _ h

/-- A successful outcome fits the capacity. -/
theorem verdictOf_ok_fits {i : Instr} {s : State} {r : Run} (h : verdictOf i s = .ok r) :
    r.out.length ≤ s.latch.operands.dstCap.toNat := by
  rcases verdictOf_cases i s with ⟨-, e, -, hv⟩ | ⟨-, he, hv⟩ | ⟨-, e, -, hv⟩
  · simp [hv] at h
  · rw [hv, Verdict.ok.injEq] at h
    subst h
    exact ((execErrors_eq_nil_iff _ _ _).1 he).2.1
  · simp [hv] at h

end Sys2Proof.Machine
end

