-- ==== Sys2Proof/Laws/Step.lean ====
section
/-! SUPPORT. What a step can do, said once. -/
namespace Sys2Proof.Machine

/-- The engine's turn: nothing in IDLE, in BUSY the completion with some outcome that fits the capacity. -/
theorem engineTurn_cases (s : State) :
    (s.phase = .idle ∧ engineTurn s = .next s)
    ∨ (s.phase = .busy ∧ ∃ v, engineTurn s = .next (s.complete v)
        ∧ ((∃ i, decode s.latch.cmd = .ok i ∧ v = verdictOf i s)
          ∨ ((∃ e, decode s.latch.cmd = .error e) ∧ v = .pre (.badCmd s.latch.cmd)))) := by
  unfold engineTurn
  cases hp : s.phase with
  | idle => exact .inl ⟨rfl, rfl⟩
  | busy =>
    cases hd : decode s.latch.cmd with
    | ok i => exact .inr ⟨rfl, _, exec_eq i s, .inl ⟨i, rfl, rfl⟩⟩
    | error e => exact .inr ⟨rfl, _, rfl, .inr ⟨⟨e, rfl⟩, rfl⟩⟩

/-- The outcome of the engine's turn fits the capacity, if it is a success. -/
theorem engineTurn_fits {s : State} {v : Verdict}
    (h : (∃ i, decode s.latch.cmd = .ok i ∧ v = verdictOf i s)
      ∨ ((∃ e, decode s.latch.cmd = .error e) ∧ v = .pre (.badCmd s.latch.cmd)))
    (r : Run) (hr : v = .ok r) : r.out.length ≤ s.latch.operands.dstCap.toNat := by
  rcases h with ⟨i, -, rfl⟩ | ⟨-, rfl⟩
  · exact verdictOf_ok_fits hr
  · simp at hr

/-- A step is the engine's turn with no turn waiting, and else the agenda's first turn. -/
theorem step_nil {s : State} (h : s.agenda = []) : step s = engineTurn s := by
  simp only [step, h]

theorem step_cons {s : State} {t : Turn} {ts : List Turn} (h : s.agenda = t :: ts) :
    step s = takeTurn t { s with agenda := ts } := by
  simp only [step, h]

/-- What a host read leaves, if it answers a next state. -/
theorem hostRead_cases {s t : State} {a : Word} {n : Nat} (h : s.hostRead a n = .next t) :
    (∃ off, t = { s with busData := leBytes 4 (s.readOffset off).toNat })
    ∨ (route s.plat a.toNat n = .memory ∧ t = s.hostMemRead a.toNat n) := by
  unfold State.hostRead at h
  cases hr : route s.plat a.toNat n <;> rw [hr] at h <;> simp only [Host.Outcome.next.injEq, reduceCtorEq] at h
  · exact .inl ⟨_, h.symm⟩
  · exact .inr ⟨rfl, h.symm⟩

/-- What a host write leaves, if it answers a next state. -/
theorem hostWrite_cases {s t : State} {a : Word} {d : List Byte} (h : s.hostWrite a d = .next t) :
    (∃ off v, t = s.writeOffset off v)
    ∨ (route s.plat a.toNat d.length = .memory ∧ t = s.hostMemWrite a.toNat d) := by
  unfold State.hostWrite at h
  cases hr : route s.plat a.toNat d.length <;> rw [hr] at h <;> simp only [Host.Outcome.next.injEq, reduceCtorEq] at h
  · exact .inl ⟨_, _, h.symm⟩
  · exact .inr ⟨rfl, h.symm⟩

/-- What a register write can do: nothing, a reset, an acceptance in IDLE, or one register's new value. -/
theorem writeOffset_cases (s : State) (off : Nat) (v : Word) :
    s.writeOffset off v = s ∨ s.writeOffset off v = s.resetMachine
    ∨ (s.phase = .idle ∧ s.writeOffset off v = s.accept v)
    ∨ s.writeOffset off v = s.writeIrqEn v ∨ s.writeOffset off v = s.writeIrqStatus v
    ∨ ∃ o, s.writeOffset off v = { s with operands := o } := by
  unfold State.writeOffset
  cases regAt off with
  | none => exact .inl rfl
  | some r =>
    cases r with
    | ctrl =>
      simp only [State.writeReg, State.writeCtrl]
      split <;> simp
    | cmd =>
      simp only [State.writeReg, State.writeCmd]
      cases s.phase <;> simp
    | _ => simp only [State.writeReg]; simp

/-- A stored opcode-table word runs as the very next step. -/
theorem step_withFetchWord (s : State) (nbits w : Nat) {i : Instr}
    (h : decode (BitVec.ofNat 32 (w % 2 ^ nbits)) = .ok i) :
    step (s.withFetchWord nbits w) = exec i { s.accept (BitVec.ofNat 32 (w % 2 ^ nbits)) with agenda := s.agenda } := by
  unfold State.withFetchWord step
  cases ha : s.agenda <;> simp only [takeTurn, engineTurn, State.accept_phase, State.accept_latch, h]

end Sys2Proof.Machine
end

