-- ==== Sys2Proof/Tests/Slice0.lean ====
section
/-! SUPPORT. Tests of the model against the spec's own words and vectors (spec/95_test_vectors.md names each), and for
every statement with hypotheses a state and operands that meet them all. -/
namespace Sys2Proof.Tests
open Sys2Proof Sys2Proof.Machine

/-! ## Small states -/

/-- Operands: source, destination, geometry, frame length. -/
def ops (sa sl da dc w h f : Word) : Operands :=
  { srcAddr := sa, srcLen := sl, dstAddr := da, dstCap := dc, width := w, height := h, frameLen := f }

/-- Memory holding `bs` from 0x1000 on. -/
def at1000 (bs : List Byte) : Memory := Memory.writeBytes [] 0x1000 bs

/-- A state in which `i` was accepted with the operands `o` over the memory `m`. -/
def accepted (i : Instr) (o : Operands) (m : Memory) : State :=
  { State.reset with
    cmd := encode i, operands := o, phase := .busy, latch := { cmd := encode i, operands := o }, mem := m }

/-- `i` accepted with its source `bs` at 0x1000, its destination at 0x2000 and the operands given. -/
def ready (i : Instr) (bs : List Byte) (cap w h f : Word) : State :=
  accepted i (ops 0x1000 (BitVec.ofNat 32 bs.length) 0x2000 cap w h f) (at1000 bs)

/-- The output, STATUS, RES_LEN, RES_FRAMES, RES_DISCARD and RES_PAYLOAD after the command's completion. -/
def after (i : Instr) (s : State) (n : Nat) : Option (List Byte × List Word) :=
  (nextState? (exec i s)).map fun t =>
    (t.bytesAt 0x2000 n, [t.statusWord, t.results.len, t.results.frames, t.results.discard, t.results.payload])

/-- STATUS and ERR_INFO after the command's completion. -/
def reported (i : Instr) (s : State) : Option (Word × Word) :=
  (nextState? (exec i s)).map fun t => (t.statusWord, t.results.errInfo)

/-- The same state with a race. -/
def raced (s : State) : State := { s with race := true }

/-- A state after a failed command: DONE_IP and ERR_IP pending (REG-4). -/
def failed : State := { State.reset with irqStatus := 3, done := true, error := true, errcode := 1 }

/-! ## Well-formedness: one ill-formed term per check -/

theorem test_wf_rsvd : rsvdLegal 0x00000101 = false ∧ rsvdLegal 0x80000001 = false ∧ rsvdLegal 0x00000001 = true := by
  decide
theorem test_wf_opcode : opcodeLegal 0x00000000 = false ∧ opcodeLegal 0x00000008 = false ∧ opcodeLegal 0x00000007 = true := by
  decide
theorem test_wf_command_word : commandWordLegal 0x00000101 = false ∧ commandWordLegal 0x00000009 = false := by decide
theorem test_wf_reg_base :
    ({ regBase := 0x40000080, maxDim := 4096, silent := [] } : Config.Platform).regBaseLegal = false := by decide
theorem test_wf_max_dim_odd :
    ({ regBase := 0x40000000, maxDim := 4095, silent := [] } : Config.Platform).maxDimLegal = false := by decide
theorem test_wf_max_dim_low :
    ({ regBase := 0x40000000, maxDim := 0, silent := [] } : Config.Platform).maxDimLegal = false := by decide
theorem test_wf_max_dim_high :
    ({ regBase := 0x40000000, maxDim := 32770, silent := [] } : Config.Platform).wf = false := by decide
theorem test_wf_reference : Config.referencePlatform.wf = true := by decide

/-! ## Decoding: each word bit by bit from R90 (RSVD 31:8, OPCODE 7:0) and R91 -/

theorem test_decode_csc_enc : decode (0b000000000000000000000000#24 ++ 0b00000001#8) = .ok .cscEnc := by decide
theorem test_decode_csc_dec : decode (0b000000000000000000000000#24 ++ 0b00000010#8) = .ok .cscDec := by decide
theorem test_decode_delta_enc : decode (0b000000000000000000000000#24 ++ 0b00000011#8) = .ok .deltaEnc := by decide
theorem test_decode_delta_dec : decode (0b000000000000000000000000#24 ++ 0b00000100#8) = .ok .deltaDec := by decide
theorem test_decode_rle_enc : decode (0b000000000000000000000000#24 ++ 0b00000101#8) = .ok .rleEnc := by decide
theorem test_decode_rle_dec : decode (0b000000000000000000000000#24 ++ 0b00000110#8) = .ok .rleDec := by decide
theorem test_decode_drle_enc : decode (0b000000000000000000000000#24 ++ 0b00000111#8) = .ok .drleEnc := by decide

/-- The lowest-addressed lane holds bits 7:0 (R64). -/
theorem test_decode_lanes : decodeBytes [0x06, 0, 0, 0, 0xAA] = .ok (.rleDec, [0xAA]) := by decide
theorem test_decode_lanes_swapped : decodeBytes [0, 0, 0, 0x06] = .error .reservedBits := by decide
theorem test_decode_short : decodeBytes [0x06, 0, 0] = .error .truncated := by decide
theorem test_decode_table_word : decodeTableWord 32 0x00000004 = some .deltaDec ∧ decodeTableWord 32 0x104 = none := by
  decide

/-! ## Coming to run -/

theorem test_fetch_word_runs : step (State.reset.withFetchWord 32 5) = exec .rleEnc (State.reset.withFetchWord 32 5) :=
  rfl
/-- With operands all zero CSC_ENC fails its geometry check (R116): STATUS 0x26, ERR_INFO 1. -/
theorem test_fetch_word_csc :
    (nextState? (step (State.reset.withFetchWord 32 1))).map (fun t => (t.statusWord, t.results.errInfo))
      = some (0x26, 1) := by decide
/-- From reset with nothing placed there is nothing to run. -/
theorem test_reset_stays : step State.reset = .next State.reset := rfl

/-! ## Byte order (R12, R64) -/

theorem test_le_bytes : leBytes 4 0x12C = [0x2C, 0x01, 0x00, 0x00] ∧ leValue [0x2C, 0x01, 0x00, 0x00] = 0x12C := by decide
theorem test_memory_order : (at1000 [0xAA, 0xBB]).lookup 0x1001 = some 0xBB ∧ Memory.wf (at1000 [0xAA, 0xBB]) := by decide

/-! ## The commands -/

/-- CT-3: subsampling of four colours. -/
theorem test_csc_enc_four_colours :
    after .cscEnc (ready .cscEnc [0xFF, 0, 0, 0, 0xFF, 0, 0, 0, 0xFF, 0xFF, 0xFF, 0xFF] 6 2 2 0) 6
      = some ([0x4C, 0x95, 0x1D, 0xFF, 0x78, 0x7F], [0x02, 6, 1, 0, 6]) := by decide
/-- CT-4: plane layout, W = 4, H = 2. -/
theorem test_csc_enc_planes :
    cscEncodeFrame 4 2
        [0, 0, 0, 0, 0, 0, 0xFF, 0xFF, 0xFF, 0xFF, 0xFF, 0xFF, 0, 0, 0, 0, 0, 0, 0xFF, 0xFF, 0xFF, 0xFF, 0xFF, 0xFF]
      = [0, 0, 0xFF, 0xFF, 0, 0, 0xFF, 0xFF, 0x80, 0x72, 0x80, 0x7F] := by decide
/-- CT-2. -/
theorem test_csc_dec :
    after .cscDec (ready .cscDec [0, 3, 6, 9, 0x80, 0x7F] 12 2 2 0) 12
      = some ([0, 0, 0, 1, 3, 3, 4, 6, 6, 7, 9, 9], [0x02, 12, 1, 0, 12]) := by decide
/-- CT-6: the chroma index on decode, W = 4, H = 2. -/
theorem test_csc_dec_chroma_index :
    cscDecodeFrame 4 2 [0x0A, 0x14, 0x1E, 0x28, 0x32, 0x3C, 0x46, 0x50, 0x80, 0xFF, 0x80, 0x00]
      = [0x0A, 0x0A, 0x0A, 0x14, 0x14, 0x14, 0x00, 0x4D, 0xFF, 0x00, 0x57, 0xFF,
         0x32, 0x32, 0x32, 0x3C, 0x3C, 0x3C, 0x00, 0x75, 0xFF, 0x00, 0x7F, 0xFF] := by decide
/-- PX-10 (exact, not binary64) and PX-6. -/
theorem test_pixel_forward :
    lumaY 2 36 55 = 28 ∧ chromaU 2 36 55 = 140 ∧ chromaV 2 36 55 = 109 ∧ chromaU 255 255 0 = 0 := by decide
/-- IX-10: zero, 130, 227. -/
theorem test_pixel_inverse :
    redOf 100 (chromaOffset 50) = 0 ∧ greenOf 100 (chromaOffset 200) (chromaOffset 50) = 130
      ∧ blueOf 100 (chromaOffset 200) = 227 := by decide
/-- DL-4 with the tail byte of P4. -/
theorem test_delta_enc :
    after .deltaEnc (ready .deltaEnc [0x00, 0xFF, 0x80, 0xFF, 0x00, 0x80, 0x01, 0x01, 0x7F, 0xAA] 9 0 0 3) 9
      = some ([0x00, 0xFF, 0x80, 0xFF, 0x01, 0x00, 0x02, 0x01, 0xFF], [0x02, 9, 3, 1, 9]) := by decide
/-- DL-6: the previous frame is the original one. -/
theorem test_delta_enc_original : deltaEncodeSeq [[1], [2], [4]] = [[1], [1], [2]] := by decide
/-- DL-3: the previous frame is the reconstructed one. -/
theorem test_delta_dec :
    after .deltaDec (ready .deltaDec [0x10, 0x20, 0xF0, 0x01, 0x01, 0xFF] 6 0 0 2) 6
      = some ([0x10, 0x20, 0x00, 0x21, 0x01, 0x20], [0x02, 6, 3, 0, 6]) := by decide
/-- DL-10: no expansion of run-length pairs. -/
theorem test_delta_dec_no_expansion : deltaDecodeSeq [[4, 0], [4, 1]] = [[4, 0], [8, 1]] := by decide
/-- RL-8, with WIDTH = 3 ignored (E-8). -/
theorem test_rle_enc :
    after .rleEnc (ready .rleEnc [5, 5, 6, 6, 6, 5] 12 3 0 0) 6 = some ([2, 5, 3, 6, 1, 5], [0x02, 6, 3, 0, 6]) := by decide
/-- E-15: RL-7 with DST_CAP 9. -/
theorem test_rle_enc_capacity : reported .rleEnc (ready .rleEnc [0, 1, 0, 1, 0] 9 0 0 0) = some (0x66, 10) := by decide
/-- RD-6. -/
theorem test_rle_dec :
    after .rleDec (ready .rleDec [0x03, 0x41, 0x02, 0x42] 5 0 0 0) 5
      = some ([0x41, 0x41, 0x41, 0x42, 0x42], [0x02, 5, 2, 0, 5]) := by decide
/-- RD-5: the offset of the first zero count; E-17: an odd length. -/
theorem test_rle_dec_malformed :
    reported .rleDec (ready .rleDec [2, 7, 0, 9] 9 0 0 0) = some (0x56, 2)
      ∧ reported .rleDec (ready .rleDec [2, 7, 0] 9 0 0 0) = some (0x56, 3) := by decide
/-- DR-1. -/
theorem test_drle_enc :
    after .drleEnc (ready .drleEnc [0, 0, 0, 0, 0, 0, 0, 0, 1, 1, 1, 1] 64 0 0 4) 32
      = some ([0, 0, 0, 0, 4, 0, 0, 0, 0, 0, 0, 0, 1, 0, 0, 0, 2, 0, 0, 0, 4, 0, 1, 0, 0, 0, 2, 0, 0, 0, 4, 1],
          [0x02, 32, 3, 0, 8]) := by decide
/-- DR-4. -/
theorem test_drle_enc_worst_case :
    drleEncode [[1, 2, 3], [2, 4, 6]]
      = [0, 0, 0, 0, 3, 0, 0, 0, 1, 2, 3, 1, 0, 0, 0, 6, 0, 0, 0, 1, 1, 1, 2, 1, 3] := by decide

/-! ## Errors and their order -/

/-- E-4 to E-7. -/
theorem test_geometry_errors :
    reported .cscEnc (ready .cscEnc [] 6 3 2 0) = some (0x26, 1)
      ∧ reported .cscDec (ready .cscDec [] 6 2 0 0) = some (0x26, 2)
      ∧ reported .cscEnc (ready .cscEnc [] 6 4098 2 0) = some (0x26, 1)
      ∧ reported .deltaDec (ready .deltaDec [] 6 2 2 0) = some (0x26, 3) := by decide
/-- E-9, E-10, E-11 and E-21. -/
theorem test_range_errors :
    reported .rleEnc (accepted .rleEnc (ops 0xFFFFFFF0 0x11 0x2000 6 0 0 0) []) = some (0x36, 1)
      ∧ rangeCheck (ops 0xFFFFFFF0 0x10 0x2000 6 0 0 0) = none
      ∧ reported .deltaEnc (accepted .deltaEnc (ops 0x1000 4 0xFFFFFFFF 2 0 0 4) []) = some (0x36, 2)
      ∧ reported .rleDec (accepted .rleDec (ops 0xFFFFFFF0 0x11 0xFFFFFFFF 2 0 0 0) []) = some (0x36, 1) := by decide
/-- E-12 to E-14. -/
theorem test_overlap :
    reported .rleEnc (accepted .rleEnc (ops 0x1000 12 0x100B 6 0 0 0) []) = some (0x46, 0)
      ∧ overlaps (ops 0x1000 12 0x100C 6 0 0 0) = false ∧ overlaps (ops 0x1000 0 0x1000 6 0 0 0) = false := by decide
/-- E-20, E-22 and E-23: the order of the prechecks. -/
theorem test_precheck_order :
    reported .cscEnc (accepted .cscEnc (ops 0xFFFFFFF0 0x11 0x2000 6 3 2 0) []) = some (0x26, 1)
      ∧ reported .rleDec (accepted .rleDec (ops 0xFFFFFFF0 0x11 0xFFFFFFF0 2 0 0 0) []) = some (0x36, 1)
      ∧ reported .rleDec (accepted .rleDec (ops 0x1000 3 0x1000 3 0 0 0) []) = some (0x46, 0) := by decide
/-- E-3: a reserved bit. -/
theorem test_illegal_word :
    (nextState? (step (State.reset.withFetchWord 32 0x80000001))).map (fun t => (t.statusWord, t.results.errInfo))
      = some (0x16, 0x80000001) := by decide
/-- E-18: the only byte that does not respond is the one reported. -/
theorem test_bus_error :
    reported .deltaEnc
        { ready .deltaEnc [1, 2, 3, 4] 4 0 0 2 with
          plat := { regBase := 0x40000000, maxDim := 4096, silent := [(0x1002, 0x1003)] } }
      = some (0x76, 0x1002) := by decide

/-! ## Registers -/

/-- REG-1. -/
theorem test_registers_after_reset :
    State.reset.readOffset 0x00 = 0x56454331 ∧ State.reset.readOffset 0x18 = 0x1000
      ∧ State.reset.readOffset 0x0C = 0 ∧ State.reset.readOffset 0x1C = 0 ∧ State.reset.irq = false := by decide
/-- The offsets of the result registers (R23). -/
theorem test_result_offsets :
    [0x40, 0x44, 0x48, 0x4C, 0x50].map
        (State.readOffset
          { State.reset with results := { len := 1, frames := 2, discard := 3, payload := 4, errInfo := 5 } })
      = [1, 2, 3, 4, 5] := by decide
/-- REG-3. -/
theorem test_irq_en_mask :
    (nextState? (takeTurn (writeTurn State.reset.plat 0x10 0xFFFFFFFF) State.reset)).map (·.readOffset 0x10)
      = some 3 := by decide
/-- REG-4: enabling ERR_IE raises the line; acknowledging DONE_IP leaves it high; acknowledging ERR_IP lowers it. -/
theorem test_irq_acknowledge :
    failed.irq = false ∧ (failed.writeOffset 0x10 0x2).irq = true
      ∧ ((failed.writeOffset 0x10 0x2).writeOffset 0x14 0x1).irqStatus = 0x2
      ∧ ((failed.writeOffset 0x10 0x2).writeOffset 0x14 0x1).irq = true
      ∧ (((failed.writeOffset 0x10 0x2).writeOffset 0x14 0x1).writeOffset 0x14 0x2).irq = false := by decide
/-- REG-5. -/
theorem test_status_busy : (State.reset.withFetchWord 32 1).statusWord = 0x01 := by decide
/-- R68 (a): a host write to the footprint of a running command sets RACE, one beside it does not. -/
theorem test_race :
    ((ready .rleEnc [7, 7] 4 0 0 0).hostMemWrite 0x1001 [9]).race = true
      ∧ ((ready .rleEnc [7, 7] 4 0 0 0).hostMemWrite 0x1002 [9]).race = false
      ∧ ((ready .rleEnc [7, 7] 4 0 0 0).hostMemWrite 0x2003 [9]).race = true
      ∧ ((ready .rleEnc [7, 7] 4 0 0 0).hostMemWrite 0x2004 [9]).race = false := by decide

/-- R251: a host read of the write region sets RACE; one of the read region, or while IDLE, does not. -/
theorem test_read_race :
    ((ready .rleEnc [7, 7] 4 0 0 0).hostMemRead 0x2003 1).race = true
      ∧ ((ready .rleEnc [7, 7] 4 0 0 0).hostMemRead 0x2004 1).race = false
      ∧ ((ready .rleEnc [7, 7] 4 0 0 0).hostMemRead 0x1000 2).race = false
      ∧ (State.reset.hostMemRead 0x2003 1).race = false := by decide

/-! ## Witnesses: a state and operands meeting the hypotheses of each statement -/

theorem test_witness_DecodeFollowsOpcodeMap :
    ((0x00000100 : Word).extractLsb' 8 24 ≠ 0) ∧ ((0 : Word).extractLsb' 0 8 = 0)
      ∧ 8 ≤ ((0x00000008 : Word).extractLsb' 0 8).toNat
      ∧ ¬ 8 ≤ ((0x00000007 : Word).extractLsb' 0 8).toNat := by decide
theorem test_witness_DecodeEncodeAgree : (Instr.drleEnc).wf = true ∧ decode (0x00000007 : Word) = .ok .drleEnc := by decide
theorem test_witness_RegisterReadHasNoSideEffect :
    State.reset.plat.regBaseLegal = true ∧ 0x54 % 4 = 0 ∧ 0x54 < 256 ∧ 0xFC % 4 = 0 ∧ 0xFC < 256 ∧ 0x54 ≤ 0xFC
      ∧ 0x1C % 4 = 0 ∧ 0x3C % 4 = 0 := by decide
theorem test_witness_ReadOnlyRegisters :
    State.reset.plat.maxDimLegal = true ∧ State.reset.plat.regBaseLegal = true ∧ 0x3C % 4 = 0 ∧ 0xFC % 4 = 0 ∧ 0xFC < 256
      ∧ 0x3C ≤ 0xFC := by decide
theorem test_witness_StatusWordFields : (0x01 : Word) = (ready .rleEnc [7] 2 0 0 0).readOffset 0x0C := by decide
theorem test_witness_IrqEnableWrite : State.reset.plat.regBaseLegal = true := by decide
theorem test_witness_IrqStatusWriteOneToClear :
    failed.plat.regBaseLegal = true ∧ (ready .rleEnc [7] 2 0 0 0).phase = .busy := by decide
theorem test_witness_OperandWriteKeepsLatch :
    (ready .rleEnc [7] 2 0 0 0).plat.regBaseLegal = true ∧ 0x20 % 4 = 0 ∧ 0x38 % 4 = 0 ∧ 0x20 ≤ 0x38 ∧ 0x40 ≠ 0x38
      ∧ 0x24 % 4 = 0 ∧ 0x28 % 4 = 0 ∧ 0x2C % 4 = 0 ∧ 0x30 % 4 = 0 ∧ 0x34 % 4 = 0 := by decide
theorem test_witness_CtrlWriteSoftReset :
    State.reset.plat.regBaseLegal = true ∧ (0x00000001 : Word).getLsbD 0 = true
      ∧ (0xFFFFFFFE : Word).getLsbD 0 = false := by decide
/-- A misaligned word, an aligned byte, and a pair that only straddles the window's first byte. -/
theorem test_witness_UnalignedRegisterAccessRefused :
    State.reset.plat.regBaseLegal = true
      ∧ (∃ k, k < 4 ∧ inWindow State.reset.plat ((0x40000002 : Word).toNat + k) = true)
      ∧ (0x40000002 : Word).toNat + 4 ≤ 2 ^ 32 ∧ (0x40000002 : Word).toNat % 4 ≠ 0 ∧ [1, 2, 3, (4 : Byte)].length = 4
      ∧ (∃ k, k < 1 ∧ inWindow State.reset.plat ((0x400000FF : Word).toNat + k) = true)
      ∧ (∃ k, k < 2 ∧ inWindow State.reset.plat ((0x3FFFFFFF : Word).toNat + k) = true) := by
  refine ⟨by decide, ⟨0, by decide⟩, by decide, by decide, by decide, ⟨0, by decide⟩, ⟨1, by decide⟩⟩
theorem test_witness_CmdWriteAcceptsWhenIdle :
    State.reset.plat.regBaseLegal = true ∧ State.reset.phase = .idle ∧ (ready .rleEnc [7] 2 0 0 0).phase = .busy := by
  decide
/-- With no turn waiting, with a completion turn waiting, in IDLE, and with a host's turn waiting. -/
theorem test_witness_StepRunsDecodedCommand :
    ((ready .rleEnc [7] 2 0 0 0).phase = .busy ∧ decode (ready .rleEnc [7] 2 0 0 0).latch.cmd = .ok .rleEnc
        ∧ (ready .rleEnc [7] 2 0 0 0).agenda = [])
      ∧ ({ ready .rleEnc [7] 2 0 0 0 with agenda := [.completion, .hardReset] } : State).agenda = .completion :: [.hardReset]
      ∧ State.reset.phase = .idle ∧ State.reset.agenda = []
      ∧ ({ State.reset with agenda := [.hardReset] } : State).agenda = .hardReset :: [] := by decide
/-- In IDLE; and while BUSY the byte after the write region. -/
theorem test_witness_HardResetClearsRegisters :
    State.reset.phase = .idle ∧ (ready .rleEnc [7] 2 0 0 0).latch.operands.inWriteRegion 0x2002 = false
      ∧ (ready .rleEnc [7] 2 0 0 0).latch.operands.inWriteRegion 0x2001 = true := by decide
/-- RSVD not zero, OPCODE zero, OPCODE eight: each accepted and running. -/
theorem test_witness_IllegalWordCompletesWithBadCmd :
    (State.reset.accept 0x101).phase = .busy ∧ (State.reset.accept 0x101).race = false
      ∧ (State.reset.accept 0x101).latch.cmd.extractLsb' 8 24 ≠ 0
      ∧ (State.reset.accept 0).latch.cmd.extractLsb' 0 8 = 0
      ∧ 8 ≤ ((State.reset.accept 8).latch.cmd.extractLsb' 0 8).toNat
      ∧ (raced (State.reset.accept 8)).phase = .busy ∧ (raced (State.reset.accept 8)).race = true := by decide
theorem test_witness_BusyEngineCompletes :
    (ready .rleEnc [7] 2 0 0 0).phase = .busy ∧ (ready .rleEnc [7] 2 0 0 0).agenda = [] := by decide
/-- Width above MAX_DIM; width legal at MAX_DIM and height odd; frame length zero; everything legal. -/
theorem test_witness_GeometryErrors :
    (ready .cscEnc [] 6 4098 2 0).race = false
      ∧ ¬ DimLegal (ready .cscEnc [] 6 4098 2 0).plat (ready .cscEnc [] 6 4098 2 0).latch.operands.width
      ∧ DimLegal (ready .cscDec [] 6 4096 3 0).plat (ready .cscDec [] 6 4096 3 0).latch.operands.width
      ∧ ¬ DimLegal (ready .cscDec [] 6 4096 3 0).plat (ready .cscDec [] 6 4096 3 0).latch.operands.height
      ∧ (ready .drleEnc [] 6 0 0 0).latch.operands.frameLen = 0
      ∧ GeometryPasses .cscEnc (ready .cscEnc [] 6 2 4096 0) := by decide
/-- A source ending one byte above 2^32; a destination doing so with the source ending at it; both ending at it. -/
theorem test_witness_RangeErrors :
    (ready .rleEnc [] 6 0 0 0).race = false ∧ GeometryPasses .rleEnc (ready .rleEnc [] 6 0 0 0)
      ∧ (ops 0xFFFFFFF0 0x11 0 0 0 0 0).srcAddr.toNat + (ops 0xFFFFFFF0 0x11 0 0 0 0 0).srcLen.toNat > 2 ^ 32
      ∧ (ops 0xFFFFFFF0 0x10 0xFFFFFFFF 2 0 0 0).srcAddr.toNat + (ops 0xFFFFFFF0 0x10 0xFFFFFFFF 2 0 0 0).srcLen.toNat ≤ 2 ^ 32
      ∧ (ops 0xFFFFFFF0 0x10 0xFFFFFFFF 2 0 0 0).dstAddr.toNat + (ops 0xFFFFFFF0 0x10 0xFFFFFFFF 2 0 0 0).dstCap.toNat > 2 ^ 32
      ∧ RangePasses (ops 0xFFFFFFF0 0x10 0xFFFFFFFF 1 0 0 0) := by decide
/-- Regions sharing one byte (E-12), and touching without sharing one (E-13). -/
theorem test_witness_OverlapErrors :
    (accepted .rleEnc (ops 0x1000 12 0x100B 6 0 0 0) []).race = false
      ∧ GeometryPasses .rleEnc (accepted .rleEnc (ops 0x1000 12 0x100B 6 0 0 0) [])
      ∧ RangePasses (ops 0x1000 12 0x100B 6 0 0 0) ∧ (ops 0x1000 12 0x100B 6 0 0 0).srcLen.toNat > 0
      ∧ (ops 0x1000 12 0x100B 6 0 0 0).dstCap.toNat > 0
      ∧ (ops 0x1000 12 0x100B 6 0 0 0).srcAddr.toNat
          < (ops 0x1000 12 0x100B 6 0 0 0).dstAddr.toNat + (ops 0x1000 12 0x100B 6 0 0 0).dstCap.toNat
      ∧ (ops 0x1000 12 0x100B 6 0 0 0).dstAddr.toNat
          < (ops 0x1000 12 0x100B 6 0 0 0).srcAddr.toNat + (ops 0x1000 12 0x100B 6 0 0 0).srcLen.toNat
      ∧ DisjointRegions (ops 0x1000 12 0x100C 6 0 0 0) ∧ ¬ DisjointRegions (ops 0x1000 12 0x100B 6 0 0 0) := by decide
theorem test_witness_OddRleLengthRejected :
    (ready .rleDec [2, 7, 0] 9 0 0 0).race = false ∧ RangePasses (ready .rleDec [2, 7, 0] 9 0 0 0).latch.operands
      ∧ DisjointRegions (ready .rleDec [2, 7, 0] 9 0 0 0).latch.operands
      ∧ (ready .rleDec [2, 7, 0] 9 0 0 0).latch.operands.srcLen.toNat % 2 = 1 := by decide
/-- A command that fails its geometry check, after acceptance; and an illegal word, which decodes to no command. -/
theorem test_witness_PrecheckErrorsTouchNothing :
    (ready .cscEnc [] 6 3 2 0).phase = .busy ∧ (ready .cscEnc [] 6 3 2 0).race = false
      ∧ decode (ready .cscEnc [] 6 3 2 0).latch.cmd = .ok .cscEnc ∧ ¬ PrechecksPass .cscEnc (ready .cscEnc [] 6 3 2 0)
      ∧ (ready .cscEnc [] 6 3 2 0).results = { len := 0, frames := 0, discard := 0, payload := 0, errInfo := 0 }
      ∧ (State.reset.accept 0x101).phase = .busy ∧ decode (State.reset.accept 0x101).latch.cmd = .error .reservedBits := by
  decide

/-- What SuccessWritesOutput asks of a state, and the pairs of hypotheses the other run statements ask. -/
def Runs (i : Instr) (s : State) : Prop :=
  s.race = false ∧ PrechecksPass i s ∧ (runOf i s.latch.operands s.mem).bad = none
    ∧ (runOf i s.latch.operands s.mem).out.length ≤ s.latch.operands.dstCap.toNat
    ∧ Answered s.plat s.latch.operands.srcAddr.toNat (runOf i s.latch.operands s.mem).readLen
    ∧ Answered s.plat s.latch.operands.dstAddr.toNat (runOf i s.latch.operands s.mem).out.length

/-- The output just fits. -/
theorem test_witness_SuccessWritesOutput : Runs .rleEnc (ready .rleEnc [5, 5, 6, 6, 6, 5] 6 0 0 0) := by
  unfold Runs; decide
/-- A zero count; an output one byte too long; a byte that does not respond. -/
theorem test_witness_ExecutionErrorIsApplicable :
    (PrechecksPass .rleDec (ready .rleDec [2, 7, 0, 9] 9 0 0 0)
        ∧ (runOf .rleDec (ready .rleDec [2, 7, 0, 9] 9 0 0 0).latch.operands (ready .rleDec [2, 7, 0, 9] 9 0 0 0).mem).bad
            ≠ none)
      ∧ (PrechecksPass .rleEnc (ready .rleEnc [0, 1] 3 0 0 0)
        ∧ ¬ (runOf .rleEnc (ready .rleEnc [0, 1] 3 0 0 0).latch.operands (ready .rleEnc [0, 1] 3 0 0 0).mem).out.length
            ≤ (ready .rleEnc [0, 1] 3 0 0 0).latch.operands.dstCap.toNat)
      ∧ ¬ Answered { regBase := 0x40000000, maxDim := 4096, silent := [(0x1001, 0x1002)] } 0x1000 2 := by decide
theorem test_witness_CapacityErrorReportsLength :
    (ready .rleEnc [0, 1] 3 0 0 0).race = false ∧ PrechecksPass .rleEnc (ready .rleEnc [0, 1] 3 0 0 0)
      ∧ (runOf .rleEnc (ready .rleEnc [0, 1] 3 0 0 0).latch.operands (ready .rleEnc [0, 1] 3 0 0 0).mem).bad = none
      ∧ (ready .rleEnc [0, 1] 3 0 0 0).latch.operands.dstCap.toNat
          < (runOf .rleEnc (ready .rleEnc [0, 1] 3 0 0 0).latch.operands (ready .rleEnc [0, 1] 3 0 0 0).mem).out.length
      ∧ Answered (ready .rleEnc [0, 1] 3 0 0 0).plat 0x1000 2 ∧ Answered (ready .rleEnc [0, 1] 3 0 0 0).plat 0x2000 3 := by
  decide
/-- A race, and one with a destination region that does not pass the range check. -/
theorem test_witness_RacedCompletion :
    (raced (ready .rleEnc [7] 2 0 0 0)).race = true ∧ (ready .rleEnc [7] 2 0 0 0).latch.operands.inWriteRegion 0x2002 = false
      ∧ ¬ RangePasses (raced (accepted .rleEnc (ops 0x1000 1 0xFFFFFFFF 2 0 0 0) [])).latch.operands := by decide
theorem test_witness_CompletionFrame : (ready .rleEnc [7] 2 0 0 0).latch.operands.inWriteRegion 0x1FFF = false := by decide
/-- A write over the last byte of the write region and the byte after it. -/
theorem test_witness_HostWriteWhileBusy :
    (ready .rleEnc [7] 2 0 0 0).phase = .busy
      ∧ route (ready .rleEnc [7] 2 0 0 0).plat (0x2001 : Word).toNat [1, (2 : Byte)].length = .memory
      ∧ (ready .rleEnc [7] 2 0 0 0).latch.operands.inFootprint ((0x2001 : Word).toNat + 0) = true
      ∧ (ready .rleEnc [7] 2 0 0 0).latch.operands.inWriteRegion ((0x2001 : Word).toNat + 1) = false := by decide
theorem test_witness_HostReadWhileBusy :
    (ready .rleEnc [7] 2 0 0 0).phase = .busy
      ∧ route (ready .rleEnc [7] 2 0 0 0).plat (0xFFFFFFFE : Word).toNat 2 = .memory
      ∧ (ready .rleEnc [7] 2 0 0 0).latch.operands.inWriteRegion ((0xFFFFFFFE : Word).toNat + 1) = false
      ∧ route (ready .rleEnc [7] 2 0 0 0).plat (0x2001 : Word).toNat 1 = .memory
      ∧ (ready .rleEnc [7] 2 0 0 0).latch.operands.inWriteRegion ((0x2001 : Word).toNat + 0) = true := by decide
theorem test_witness_HostMemoryWhileIdle :
    State.reset.phase = .idle ∧ route State.reset.plat (0xFFFFFFFE : Word).toNat [1, (2 : Byte)].length = .memory := by
  decide

/-- CT-7: two frames and a tail. -/
def ct7 : State :=
  ready .cscEnc
    [0, 1, 2, 3, 4, 5, 6, 7, 8, 9, 10, 11, 0xC8, 0x64, 0x32, 0xC8, 0x64, 0x32, 0xC8, 0x64, 0x32, 0xC8, 0x64, 0x32,
     1, 2, 3, 4, 5] 12 2 2 0

theorem test_witness_CscEncCompletes :
    ct7.race = false ∧ PrechecksPass .cscEnc ct7
      ∧ ct7.latch.operands.srcLen.toNat / (3 * 2 * 2) * (3 * 2 * 2 / 2) ≤ ct7.latch.operands.dstCap.toNat
      ∧ Answered ct7.plat 0x1000 (2 * (3 * 2 * 2)) ∧ Answered ct7.plat 0x2000 (2 * (3 * 2 * 2 / 2)) := by decide
theorem test_witness_CscDecCompletes :
    (ready .cscDec [0, 3, 6, 9, 0x80, 0x7F] 12 2 2 0).race = false
      ∧ PrechecksPass .cscDec (ready .cscDec [0, 3, 6, 9, 0x80, 0x7F] 12 2 2 0)
      ∧ (ready .cscDec [0, 3, 6, 9, 0x80, 0x7F] 12 2 2 0).latch.operands.srcLen.toNat / (3 * 2 * 2 / 2) * (3 * 2 * 2) ≤ 12
      ∧ Answered (ready .cscDec [0, 3, 6, 9, 0x80, 0x7F] 12 2 2 0).plat 0x1000 6
      ∧ Answered (ready .cscDec [0, 3, 6, 9, 0x80, 0x7F] 12 2 2 0).plat 0x2000 12 := by decide
/-- Two frames of two bytes and a tail: frame 0 and frame 1 both have bytes. -/
theorem test_witness_DeltaEncCompletes :
    (ready .deltaEnc [1, 2, 3, 4, 5] 4 0 0 2).race = false ∧ PrechecksPass .deltaEnc (ready .deltaEnc [1, 2, 3, 4, 5] 4 0 0 2)
      ∧ (ready .deltaEnc [1, 2, 3, 4, 5] 4 0 0 2).latch.operands.srcLen.toNat / 2 = 2
      ∧ 2 * 2 ≤ (ready .deltaEnc [1, 2, 3, 4, 5] 4 0 0 2).latch.operands.dstCap.toNat
      ∧ Answered (ready .deltaEnc [1, 2, 3, 4, 5] 4 0 0 2).plat 0x1000 4
      ∧ Answered (ready .deltaEnc [1, 2, 3, 4, 5] 4 0 0 2).plat 0x2000 4 ∧ 0 + 1 < 2 := by decide
theorem test_witness_DeltaDecCompletes :
    (ready .deltaDec [1, 2, 3, 4, 5] 4 0 0 2).race = false ∧ PrechecksPass .deltaDec (ready .deltaDec [1, 2, 3, 4, 5] 4 0 0 2)
      ∧ (ready .deltaDec [1, 2, 3, 4, 5] 4 0 0 2).latch.operands.srcLen.toNat / 2 = 2
      ∧ 2 * 2 ≤ (ready .deltaDec [1, 2, 3, 4, 5] 4 0 0 2).latch.operands.dstCap.toNat
      ∧ Answered (ready .deltaDec [1, 2, 3, 4, 5] 4 0 0 2).plat 0x1000 4
      ∧ Answered (ready .deltaDec [1, 2, 3, 4, 5] 4 0 0 2).plat 0x2000 4 ∧ 0 + 1 < 2 := by decide
theorem test_witness_RleEncCompletes :
    (ready .rleEnc [5, 5, 6] 4 0 0 0).race = false ∧ PrechecksPass .rleEnc (ready .rleEnc [5, 5, 6] 4 0 0 0)
      ∧ (rleEncode (ready .rleEnc [5, 5, 6] 4 0 0 0).sourceBytes).length ≤ 4
      ∧ Answered (ready .rleEnc [5, 5, 6] 4 0 0 0).plat 0x1000 3 ∧ Answered (ready .rleEnc [5, 5, 6] 4 0 0 0).plat 0x2000 4 := by
  decide
/-- No zero count, and a zero count in the second pair. -/
theorem test_witness_RleDecCompletes :
    (ready .rleDec [3, 0x41, 2, 0x42] 5 0 0 0).race = false ∧ PrechecksPass .rleDec (ready .rleDec [3, 0x41, 2, 0x42] 5 0 0 0)
      ∧ (rleDecode (ready .rleDec [3, 0x41, 2, 0x42] 5 0 0 0).sourceBytes).bad = none
      ∧ (rleDecode (ready .rleDec [3, 0x41, 2, 0x42] 5 0 0 0).sourceBytes).out.length ≤ 5
      ∧ (rleDecode (ready .rleDec [3, 0x41, 0, 0x42] 5 0 0 0).sourceBytes).bad = some 2
      ∧ (rleDecode (ready .rleDec [3, 0x41, 0, 0x42] 5 0 0 0).sourceBytes).out.length ≤ 5
      ∧ Answered (ready .rleDec [3, 0x41, 2, 0x42] 5 0 0 0).plat 0x1000 4
      ∧ Answered (ready .rleDec [3, 0x41, 2, 0x42] 5 0 0 0).plat 0x2000 5 := by decide
theorem test_witness_DrleEncCompletes :
    (ready .drleEnc [1, 2, 3, 4, 5] 24 0 0 2).race = false ∧ PrechecksPass .drleEnc (ready .drleEnc [1, 2, 3, 4, 5] 24 0 0 2)
      ∧ (drleEncode ((ready .drleEnc [1, 2, 3, 4, 5] 24 0 0 2).sourceFrames 2)).length ≤ 24
      ∧ Answered (ready .drleEnc [1, 2, 3, 4, 5] 24 0 0 2).plat 0x1000 4
      ∧ Answered (ready .drleEnc [1, 2, 3, 4, 5] 24 0 0 2).plat 0x2000 22 := by decide
/-- One byte less than a frame (S-5, CT-8, DR-3), and no source byte at all. -/
theorem test_witness_EmptyWorkSucceeds_csc :
    (ready .cscEnc [1, 2, 3, 4, 5, 6, 7, 8, 9, 10, 11] 6 2 2 0).race = false
      ∧ PrechecksPass .cscEnc (ready .cscEnc [1, 2, 3, 4, 5, 6, 7, 8, 9, 10, 11] 6 2 2 0) ∧ 11 < 3 * 2 * 2
      ∧ PrechecksPass .cscDec (ready .cscDec [1, 2, 3, 4, 5] 6 2 2 0) ∧ 5 < 3 * 2 * 2 / 2 := by decide
theorem test_witness_EmptyWorkSucceeds_delta :
    (ready .drleEnc [1, 2] 6 0 0 3).race = false
      ∧ PrechecksPass .deltaEnc (ready .deltaEnc [1, 2] 6 0 0 3) ∧ PrechecksPass .deltaDec (ready .deltaDec [1, 2] 6 0 0 3)
      ∧ PrechecksPass .drleEnc (ready .drleEnc [1, 2] 6 0 0 3) ∧ 2 < 3 := by decide
theorem test_witness_EmptyWorkSucceeds_rle :
    (ready .rleDec [] 6 0 0 0).race = false ∧ PrechecksPass .rleEnc (ready .rleEnc [] 6 0 0 0)
      ∧ PrechecksPass .rleDec (ready .rleDec [] 6 0 0 0) ∧ (ready .rleDec [] 6 0 0 0).latch.operands.srcLen = 0 := by decide
theorem test_witness_RunReadsOnlyTheLatch : (ready .rleEnc [7] 2 0 0 0).phase = .busy := by decide
/-- Two frames of CT-7's geometry, and memories that differ in the first byte of frame 0 and agree on frame 1. -/
theorem test_witness_ColourFramesIndependent :
    ct7.latch.operands.width.toNat % 2 = 0 ∧ ct7.latch.operands.height.toNat % 2 = 0
      ∧ 1 < ct7.latch.operands.srcLen.toNat / (3 * 2 * 2) ∧ 1 < ct7.latch.operands.srcLen.toNat / (3 * 2 * 2 / 2)
      ∧ ct7.mem.read 0x1000 ≠ (ct7.mem.writeBytes 0x1000 [9]).read 0x1000
      ∧ (∀ k, k < 3 * 2 * 2 →
          ct7.mem.read (0x1000 + 1 * (3 * 2 * 2) + k) = (ct7.mem.writeBytes 0x1000 [9]).read (0x1000 + 1 * (3 * 2 * 2) + k))
      ∧ ∀ k, k < 3 * 2 * 2 / 2 →
          ct7.mem.read (0x1000 + 1 * (3 * 2 * 2 / 2) + k)
            = (ct7.mem.writeBytes 0x1000 [9]).read (0x1000 + 1 * (3 * 2 * 2 / 2) + k) := by decide
/-- The ends of the chroma range. -/
theorem test_witness_IntegerFormsAgree :
    (-128 : Int) ≤ chromaOffset 0 ∧ chromaOffset 0 ≤ 127 ∧ -128 ≤ chromaOffset 255 ∧ chromaOffset 255 ≤ 127 := by decide
/-- W = 4, H = 2: the last pixel and the last block. -/
theorem test_witness_EncodedFrameLayout :
    4 % 2 = 0 ∧ 2 % 2 = 0 ∧ (List.replicate 24 (7 : Byte)).length = 3 * 4 * 2 ∧ 7 < 4 * 2 ∧ 0 < 2 / 2 ∧ 1 < 4 / 2 := by decide
theorem test_witness_DecodedFrameLayout :
    4 % 2 = 0 ∧ 2 % 2 = 0 ∧ (List.replicate 12 (7 : Byte)).length = 3 * 4 * 2 / 2 ∧ 1 < 2 ∧ 3 < 4 := by decide
theorem test_witness_DeltaIdentity : ∀ x ∈ [[0x10, 0x20], [0x00, 0x30], [0xFF, (0x00 : Byte)]], x.length = 2 := by decide
/-- A run that ends at another byte, a run that ends with the buffer, and one of 255 that does not end. -/
theorem test_witness_RleEncodesMaximalRuns :
    (1 ≤ 3 ∧ 3 ≤ 255 ∧ [9].head? ≠ some (7 : Byte)) ∧ ([] : List Byte).head? ≠ some 7 ∧ 255 ≤ 255
      ∧ [(7 : Byte)].head? = some 7 := by decide
/-- RL-7 has no two adjacent equal bytes. -/
theorem test_witness_RleCountsAndLengths :
    (∀ k, k < 4 → [0, 1, 0, 1, (0 : Byte)].getD k 0 ≠ [0, 1, 0, 1, (0 : Byte)].getD (k + 1) 0)
      ∧ [0, 1, 0, 1, (0 : Byte)].length = 5 ∧ 2 * 4 < (rleEncode [0, 1, 0, 1, 0]).length := by decide
/-- RD-6 has no zero count; in RD-5 pair 1 has the first. -/
theorem test_witness_RleDecodesPairs :
    (∀ p ∈ [((3 : Byte), (0x41 : Byte)), (2, 0x42)], p.1 ≠ 0)
      ∧ 1 < [((2 : Byte), (7 : Byte)), (0, 9)].length
      ∧ (∀ p ∈ [((2 : Byte), (7 : Byte)), (0, 9)].take 1, p.1 ≠ 0) ∧ ([((2 : Byte), (7 : Byte)), (0, 9)].getD 1 (1, 0)).1 = 0 := by
  simp
theorem test_witness_DrleRecordFormat : ∀ x ∈ [1, 2, 3] :: [[2, 4, (6 : Byte)]], x.length = 3 := by decide
theorem test_witness_StagedDecodeRestoresFrames :
    (∀ x ∈ [[1, 2, 3], [2, 4, (6 : Byte)]], x.length = 3) ∧ [[1, 2, 3], [2, 4, (6 : Byte)]].length * 3 < 2 ^ 32
      ∧ [[1, 2, 3], [2, 4, (6 : Byte)]].length ≤ 2 := by decide
/-- The invariant holds while a command runs, and its step answers a next state. -/
theorem test_witness_StepKeepsInvariant :
    (ready .rleEnc [5, 5, 6] 4 0 0 0).Inv ∧ (nextState? (step (ready .rleEnc [5, 5, 6] 4 0 0 0))).isSome = true := by decide
theorem test_witness_StepKeepsPlatform : (nextState? (step State.reset)).isSome = true := by decide
/-- A byte changed by a completion, and one changed by a host. -/
theorem test_witness_MemoryChangesOnlyWhereAllowed :
    (nextState? (step { ready .rleEnc [5] 2 0 0 0 with mem := Memory.writeBytes (at1000 [5]) 0x2000 [9, 9] })).map
        (fun t => t.byteAt 0x2000) = some 1
      ∧ (nextState? (step { State.reset with agenda := [.hostWrite 0x1000 [1]], mem := at1000 [5] })).map
        (fun t => t.byteAt 0x1000) = some 1 := by decide
/-- An error sets all of them, with no turn waiting and with a completion turn waiting. -/
theorem test_witness_OnlyCompletionSetsFlags :
    (nextState? (step (ready .rleEnc [5] 1 0 0 0))).map (fun t => (t.irqStatus, t.done, t.error)) = some (3, true, true)
      ∧ (nextState? (step { ready .rleEnc [5] 1 0 0 0 with agenda := [.completion, .hardReset] })).map
          (fun t => (t.irqStatus, t.done, t.error)) = some (3, true, true)
      ∧ (ready .rleEnc [5] 1 0 0 0).irqStatus = 0 ∧ (ready .rleEnc [5] 1 0 0 0).done = false
      ∧ (ready .rleEnc [5] 1 0 0 0).error = false := by decide

end Sys2Proof.Tests
end

/-! SUPPORT. The register window seen from the bus (spec/10_state.md R24 to R30, R39) and the write of CMD
(spec/40_command_execution.md R111, R113). -/
namespace Sys2Proof.Machine

/-! ## A register write turn, by register -/

theorem RegName.offset_aligned (r : RegName) : r.offset % 4 = 0 := by cases r <;> rfl

theorem RegName.offset_lt (r : RegName) : r.offset < 256 := by cases r <;> decide

/-- A write turn at a register's offset is a write of that register (R96). -/
theorem takeTurn_writeReg {s : State} (hp : s.plat.regBaseLegal = true) (r : RegName) (v : Word) :
    takeTurn (writeTurn s.plat r.offset v) s = .next (s.writeReg r v) := by
  rw [takeTurn_write hp r.offset_aligned r.offset_lt, State.writeOffset_offset]

/-! ## ID, CAPS and the read-only offsets (R24, R27, R30, R35, R40) -/

theorem capsWord_low {p : Config.Platform} (h : p.maxDimLegal = true) :
    ((capsWord p).extractLsb' 0 16).toNat = p.maxDim := by
  simp only [Config.Platform.maxDimLegal, Bool.and_eq_true, decide_eq_true_eq] at h
  simp [capsWord]
  omega

theorem capsWord_high (p : Config.Platform) : (capsWord p).extractLsb' 16 16 = 0 := by
  ext i hi
  simp [capsWord]

/-- No register that stores what a host writes sits at a read-only offset. -/
theorem State.writeReg_readOnly (s : State) (v : Word) {r : RegName}
    (h : r.offset = 0x00 ∨ r.offset = 0x0C ∨ r.offset = 0x18 ∨ r.offset = 0x1C ∨ 0x3C ≤ r.offset) :
    s.writeReg r v = s := by
  cases r with
  | id | status | caps | resLen | resFrames | resDiscard | resPayload | errInfo => rfl
  | ctrl | cmd | irqEn | irqStatus | srcAddr | srcLen | dstAddr | dstCap | width | height | frameLen =>
    simp [RegName.offset] at h

theorem State.writeOffset_readOnly (s : State) (v : Word) {off : Nat}
    (h : off = 0x00 ∨ off = 0x0C ∨ off = 0x18 ∨ off = 0x1C ∨ 0x3C ≤ off) : s.writeOffset off v = s := by
  unfold State.writeOffset
  cases hr : regAt off with
  | none => rfl
  | some r =>
    rw [← regAt_eq_some hr] at h
    exact s.writeReg_readOnly v h

/-- Settles O6: ID and CAPS have no storage, and the write of a read-only or reserved offset leaves the state. -/
theorem readOnlyRegisters : Obligations.ReadOnlyRegisters := by
  refine ⟨fun s hd => ⟨rfl, capsWord_low hd, capsWord_high s.plat⟩, fun s off v hp h4 hlt hro => ?_⟩
  rw [takeTurn_write hp h4 hlt, s.writeOffset_readOnly v hro]

/-! ## The interrupt line (R39) -/

/-- The line, source by source. -/
theorem State.irq_iff (s : State) :
    s.irq = true ↔
      (s.irqStatus.getLsbD 0 = true ∧ s.irqEn.getLsbD 0 = true)
      ∨ (s.irqStatus.getLsbD 1 = true ∧ s.irqEn.getLsbD 1 = true) := by
  have twoBits : ∀ x y : BitVec 2, ((x &&& y) != 0) = true ↔
      (x.getLsbD 0 = true ∧ y.getLsbD 0 = true) ∨ (x.getLsbD 1 = true ∧ y.getLsbD 1 = true) := by decide
  exact twoBits s.irqStatus s.irqEn

/-- Settles O9: bit by bit, and a reset clears both registers. -/
theorem irqLineLevel : Obligations.IrqLineLevel :=
  ⟨State.irq_iff, fun s => by simp [State.irq]⟩

/-! ## IRQ_EN and IRQ_STATUS (R28, R29) -/

/-- What IRQ_EN stores of a word reads back as the word masked to bits 1:0. -/
theorem setWidth_two_readback (v : Word) : (v.setWidth 2).setWidth 32 = v &&& 0x3 := by
  apply BitVec.eq_of_toNat_eq
  rw [BitVec.toNat_setWidth, BitVec.toNat_setWidth, Nat.mod_eq_of_lt (by omega)]
  exact (Nat.and_two_pow_sub_one_eq_mod v.toNat 2).symm

/-- A two-bit register read as a word: its bits in 1:0. -/
theorem lowBits_setWidth (x : BitVec 2) : (x.setWidth 32).extractLsb' 0 2 = x := by
  rw [← BitVec.setWidth_eq_extractLsb' (by decide), BitVec.setWidth_setWidth_of_le _ (by decide), BitVec.setWidth_eq]

/-- A two-bit register read as a word: 0 in 31:2. -/
theorem highBits_setWidth (x : BitVec 2) : (x.setWidth 32).extractLsb' 2 30 = 0 := by
  ext i hi
  simp

/-- Settles O7: the write is `writeIrqEn`, whose bits, read-back and line follow. -/
theorem irqEnableWrite : Obligations.IrqEnableWrite := by
  intro s v hp
  refine ⟨s.writeIrqEn v, takeTurn_writeReg hp .irqEn v, by simp, by simp, setWidth_two_readback v, rfl, ?_⟩
  simp [State.irq_iff, and_comm]

/-- Every completion sets DONE_IP, and ERR_IP exactly with an error (R126). -/
theorem complete_irqStatus (s : State) (v : Verdict) :
    (s.complete v).irqStatus.getLsbD 0 = true
    ∧ (s.complete v).irqStatus.getLsbD 1 = (s.irqStatus.getLsbD 1 || (s.complete v).errcode != 0) := by
  have h : (s.complete v).irqStatus = s.irqStatus ||| (if (s.complete v).errcode = 0 then 0b01 else 0b11) :=
    congrArg State.irqStatus (complete_frame s v)
  rw [h]
  by_cases hc : (s.complete v).errcode = 0
  · simp [hc]
  · have he : ((s.complete v).errcode != 0) = true := by simpa using hc
    rw [if_neg hc, he]
    simp

/-- Settles O8: the write is `writeIrqStatus`, and a BUSY engine's turn is a completion. -/
theorem irqStatusWriteOneToClear : Obligations.IrqStatusWriteOneToClear := by
  constructor
  · intro s v hp
    have bits : ∀ i, i < 2 → (s.writeIrqStatus v).irqStatus.getLsbD i = (s.irqStatus.getLsbD i && !v.getLsbD i) :=
      fun i hi => by simp [hi]
    exact ⟨_, takeTurn_writeReg hp .irqStatus v, rfl, bits, lowBits_setWidth _, highBits_setWidth _⟩
  · intro s hb
    rcases engineTurn_cases s with ⟨hi, -⟩ | ⟨-, v, hv, -⟩
    · simp [hb] at hi
    · exact ⟨_, hv, complete_irqStatus s v⟩

/-! ## CTRL and CMD (R25, R26, R111, R113) -/

/-- Settles O11: the write of CTRL is `writeCtrl`, which looks at bit 0 only. -/
theorem ctrlWriteSoftReset : Obligations.CtrlWriteSoftReset := by
  intro s v hp
  have hw : takeTurn (writeTurn s.plat 0x04 v) s = .next (s.writeCtrl v) := takeTurn_writeReg hp .ctrl v
  refine ⟨fun h => ?_, fun h => ?_, rfl⟩
  · rw [hw, State.writeCtrl, if_pos h]; rfl
  · rw [hw, State.writeCtrl, h]; rfl

/-- Settles O13: the write of CMD is `writeCmd`, which is the accept step in IDLE. -/
theorem cmdWriteAcceptsWhenIdle : Obligations.CmdWriteAcceptsWhenIdle := by
  intro s w hp
  have hw : takeTurn (writeTurn s.plat 0x08 w) s = .next (s.writeCmd w) := takeTurn_writeReg hp .cmd w
  refine ⟨fun h => ?_, fun h => ?_, rfl⟩
  · rw [hw, State.writeCmd, h]; rfl
  · rw [hw, State.writeCmd, h]

end Sys2Proof.Machine

/-! SUPPORT. The decoder on every word (spec/30_encoding.md R91, R92, R95). -/
namespace Sys2Proof

/-- The word of a command decodes to that command (R91). -/
@[simp] theorem decode_encode (i : Instr) : decode (encode i) = .ok i := by
  cases i <;> decide

/-- The first line of R95: a word whose RSVD is not 0 is BAD, whatever its OPCODE. -/
theorem decode_eq_reservedBits {w : Word} (h : rsvdField w ≠ 0) : decode w = .error .reservedBits :=
  if_pos h

/-- The last line of R95: with RSVD 0, an OPCODE outside 0x01 to 0x07 is BAD. -/
theorem decode_eq_reservedOpcode {w : Word} (hr : rsvdField w = 0)
    (ho : opcodeField w = 0 ∨ 8 ≤ (opcodeField w).toNat) : decode w = .error .reservedOpcode := by
  have hout : (opcodeField w).toNat = 0 ∨ 8 ≤ (opcodeField w).toNat := ho.imp_left fun h => by rw [h]; rfl
  rw [decode, if_neg (not_not_intro hr)]
  split
  case h_8 => rfl
  all_goals omega

/-- An illegal word (R92) decodes to no command. -/
theorem decode_illegal {w : Word} (h : rsvdField w ≠ 0 ∨ opcodeField w = 0 ∨ 8 ≤ (opcodeField w).toNat) :
    ∃ e, decode w = .error e := by
  by_cases hr : rsvdField w = 0
  · exact ⟨_, decode_eq_reservedOpcode hr (h.resolve_left (not_not_intro hr))⟩
  · exact ⟨_, decode_eq_reservedBits hr⟩

/-- Settles O1: the seven words are `encode` of the seven commands, and the last clause is R92's illegal words. -/
theorem decodeFollowsOpcodeMap : Obligations.DecodeFollowsOpcodeMap := by
  have legal : ∀ (i : Instr) {w : Word}, w = encode i → decode w = .ok i := fun i _ hw => hw ▸ decode_encode i
  exact fun w => ⟨legal .cscEnc, legal .cscDec, legal .deltaEnc, legal .deltaDec, legal .rleEnc, legal .rleDec,
    legal .drleEnc, decode_illegal⟩

end Sys2Proof

/-! SUPPORT. The prechecks look at no memory (spec/40_command_execution.md R114, R123). -/
namespace Sys2Proof.Machine

/-- A BUSY engine runs the command its latched word decodes to (R112, R114). -/
theorem engineTurn_of_decode_ok {s : State} {i : Instr} (hb : s.phase = .busy) (hd : decode s.latch.cmd = .ok i) :
    engineTurn s = .next (s.complete (verdictOf i s)) := by
  simp only [engineTurn, hb, hd, exec_eq]

/-- A BUSY engine completes an illegal word with ERR_BAD_CMD (R92, R115). -/
theorem engineTurn_of_decode_error {s : State} {x : DecodeReject} (hb : s.phase = .busy)
    (hd : decode s.latch.cmd = .error x) : engineTurn s = .next (s.complete (.pre (.badCmd s.latch.cmd))) := by
  simp only [engineTurn, hb, hd, State.completeBadCommand]

/-- A BUSY engine whose word is illegal or whose command fails a precheck completes with one and the same precheck error
over any memory (R92, R123). -/
theorem engineTurn_precheckError {s : State} (hb : s.phase = .busy)
    (hf : ∀ i, decode s.latch.cmd = .ok i → ¬ PrechecksPass i s) :
    ∃ e, ∀ m : Memory, engineTurn { s with mem := m } = .next (State.complete { s with mem := m } (.pre e)) := by
  cases hd : decode s.latch.cmd with
  | error x => exact ⟨.badCmd s.latch.cmd, fun m => engineTurn_of_decode_error hb hd⟩
  | ok i =>
    obtain ⟨e, he⟩ : ∃ e, prechecks (geometryOf i s) (lastCheckOf i s) s.latch.operands = some e :=
      Option.ne_none_iff_exists'.1 fun hn => hf i hd ((prechecksOf_eq_none_iff i s).1 hn)
    refine ⟨e, fun m => ?_⟩
    have hv : verdictOf i { s with mem := m } = .pre e := verdictOf_pre he
    rw [← hv]
    exact engineTurn_of_decode_ok hb hd

/-- Settles O23: the error is the same over any memory, and its completion keeps memory and RES_* (`complete_pre`). -/
theorem precheckErrorsTouchNothing : Obligations.PrecheckErrorsTouchNothing := by
  intro s hb hr hf
  obtain ⟨e, he⟩ := engineTurn_precheckError hb hf
  have rejected := fun m : Memory => complete_pre (s := { s with mem := m }) hr e
  have completes := fun m => (he m).trans (congrArg Host.Outcome.next (rejected m))
  exact ⟨_, completes s.mem, rfl, rfl, rfl, rfl, rfl, rfl, completes, fun w hw => by simp only [hw]⟩

end Sys2Proof.Machine

/-! SUPPORT. The colour formulas on exact rationals (spec/41_color_transform.md R141 to R144, R152) and every byte of an
encoded and of a decoded frame (R147, R148, R151, R155). -/
namespace Sys2Proof.Machine

/-! ## A numerator over a denominator is the rational it stands for (R10, R141) -/

theorem floorQ_eq_floor {num : Int} {den : Nat} {x : ℚ} (hx : (num / den : ℚ) = x) : floorQ num den = ⌊x⌋ := by
  rw [← hx, Rat.floor_intCast_div_natCast, floorQ]

theorem truncQ_eq_truncRat (num : Int) {den : Nat} (hd : 0 < den) : truncQ num den = truncRat (num / den) := by
  have hq : (0 : ℚ) ≤ num / den ↔ 0 ≤ num := by
    rw [le_div_iff₀ (by exact_mod_cast hd), zero_mul, Int.cast_nonneg_iff]
  unfold truncQ truncRat
  by_cases hn : 0 ≤ num
  · rw [if_pos (hq.2 hn), Rat.floor_intCast_div_natCast, Int.tdiv_eq_ediv_of_nonneg hn]
  · rw [if_neg (mt hq.1 hn), Rat.ceil_intCast_div_natCast, ← Int.tdiv_eq_ediv_of_nonneg (by omega), Int.neg_tdiv,
      neg_neg]

/-- The byte of `u8Q` is u8 of the exact quotient. -/
theorem u8Q_toNat {num : Int} {den : Nat} {x : ℚ} (hd : 0 < den) (hx : (num / den : ℚ) = x) :
    ((u8Q num den).toNat : ℤ) = u8Rat x := by
  rw [← hx, u8Rat, ← truncQ_eq_truncRat num hd, u8Q, BitVec.toNat_ofInt]
  exact Int.toNat_of_nonneg (Int.emod_nonneg _ (by decide))

theorem clampQ_div (num : Int) {den : Nat} (hd : 0 < den) (lo hi : Int) :
    (clampQ num den lo hi / den : ℚ) = clampRat (num / den) lo hi := by
  have hpos : (0 : ℚ) < den := by exact_mod_cast hd
  have hlo : (num / den : ℚ) < lo ↔ num < lo * den := by rw [div_lt_iff₀ hpos]; exact_mod_cast Iff.rfl
  have hhi : (hi : ℚ) < num / den ↔ hi * den < num := by rw [lt_div_iff₀ hpos]; exact_mod_cast Iff.rfl
  simp only [clampQ, clampRat, hlo, hhi]
  split
  · push_cast; exact mul_div_cancel_right₀ _ hpos.ne'
  · split
    · push_cast; exact mul_div_cancel_right₀ _ hpos.ne'
    · rfl

/-- Settles O43: each numerator over its denominator is the rational of its rule, and `u8Q` is u8 of it. -/
theorem forwardPixelFormulas : Obligations.ForwardPixelFormulas := by
  intro r g b
  have hY : floorQ (299 * byteInt r + 587 * byteInt g + 114 * byteInt b) 1000
      = ⌊(299 / 1000 : ℚ) * r.toNat + (587 / 1000 : ℚ) * g.toNat + (114 / 1000 : ℚ) * b.toNat⌋ := by
    apply floorQ_eq_floor
    simp only [byteInt]; push_cast; ring
  refine ⟨?_, u8Q_toNat (by decide) ?_, u8Q_toNat (by decide) ?_⟩
  · rw [lumaY, hY]
    exact u8Q_toNat Nat.one_pos (by simp)
  all_goals simp only [byteInt]; push_cast; ring

/-- A component of the inverse transform, over the denominator 1000: u8 of the clamp of the exact quotient (R152). -/
theorem u8Q_clampQ_toNat {num : Int} {x : ℚ} (hx : (num / (1000 : Nat) : ℚ) = x) :
    ((u8Q (clampQ num 1000 0 255) 1000).toNat : ℤ) = u8Rat (clampRat x 0 255) := by
  refine u8Q_toNat (by decide) ?_
  rw [clampQ_div _ (by decide), hx]
  rfl

/-- Settles O44: each numerator over 1000 is the rational of R152, and clamp and u8 are those of the rational. -/
theorem inversePixelFormulas : Obligations.InversePixelFormulas := by
  intro y cu cv
  refine ⟨u8Q_clampQ_toNat ?_, u8Q_clampQ_toNat ?_, u8Q_clampQ_toNat ?_⟩
  all_goals simp only [chromaOffset, byteInt]; push_cast; ring

/-! ## A list of parts of one length, by index -/

theorem length_range_flatMap_parts {g : Nat → Frame} {n : Nat} (hg : ∀ i, (g i).length = n) (m : Nat) :
    ((List.range m).flatMap g).length = m * n := by
  simp [List.length_flatMap, hg]

theorem getD_range_flatMap_parts {g : Nat → Frame} {n m i k : Nat} (hg : ∀ i, (g i).length = n) (hi : i < m)
    (hk : k < n) : ((List.range m).flatMap g).getD (i * n + k) 0 = (g i).getD k 0 := by
  have hparts : ∀ x ∈ (List.range m).map g, (id x).length = n := by simp [hg]
  have hget := getD_flatMap_parts hparts (i := i) (by simpa using hi) hk
  rwa [List.flatMap_map, List.getElem_map, List.getElem_range] at hget

/-! ## The encoded frame (R147, R148) -/

theorem mean4_toNat (a b c d : Byte) : (mean4 a b c d).toNat = (a.toNat + b.toNat + c.toNat + d.toNat) / 4 := by
  rw [mean4, BitVec.toNat_ofNat]
  omega

theorem lumaPlane_getD (f : Frame) {w h p : Nat} (hp : p < w * h) :
    (lumaPlane f w h).getD p 0 = pixelRgb lumaY f p := by
  simp [lumaPlane, List.getD_eq_getElem?_getD, hp]

theorem chromaPlane_getD (c : Byte → Byte → Byte → Byte) (f : Frame) {w h y x : Nat} (hy : y < h / 2) (hx : x < w / 2) :
    (chromaPlane c f w h).getD (y * (w / 2) + x) 0 = blockMean c f w y x := by
  rw [chromaPlane, getD_range_flatMap_parts (by simp) hy hx]
  simp [List.getD_eq_getElem?_getD, hx]

/-- For even dimensions a chroma plane is a quarter of the luma plane (R140). -/
theorem chromaPlane_length_quarter (c : Byte → Byte → Byte → Byte) (f : Frame) {w h : Nat} (hw : w % 2 = 0)
    (hh : h % 2 = 0) : (chromaPlane c f w h).length = w * h / 4 := by
  obtain ⟨a, rfl⟩ := Nat.dvd_of_mod_eq_zero hw
  obtain ⟨b, rfl⟩ := Nat.dvd_of_mod_eq_zero hh
  have hquarter : 2 * a * (2 * b) = 4 * (b * a) := by ring
  simp [hquarter]

/-- For even dimensions a frame has a multiple of four pixels. -/
theorem four_dvd_pixels {w h : Nat} (hw : w % 2 = 0) (hh : h % 2 = 0) : 4 ∣ w * h :=
  Nat.mul_dvd_mul (Nat.dvd_of_mod_eq_zero hw) (Nat.dvd_of_mod_eq_zero hh)

theorem index_lt_of_row_lt {y x m n : Nat} (hy : y < m) (hx : x < n) : y * n + x < m * n :=
  calc y * n + x < (y + 1) * n := by rw [Nat.succ_mul]; omega
    _ ≤ m * n := Nat.mul_le_mul_right n hy

/-- Settles O47: the three planes one after another, each at its own offset. -/
theorem encodedFrameLayout : Obligations.EncodedFrameLayout := by
  intro f w h hw hh _
  have hU := chromaPlane_length_quarter chromaU f hw hh
  have hV := chromaPlane_length_quarter chromaV f hw hh
  refine ⟨?_, fun p hp => ?_, ?_⟩
  · obtain ⟨n, hn⟩ := four_dvd_pixels hw hh
    simp only [cscEncodeFrame, List.length_append, lumaPlane_length, hU, hV, Nat.mul_assoc 3, hn]
    omega
  · rw [cscEncodeFrame, List.append_assoc, List.getD_append _ _ _ _ (by simpa using hp), lumaPlane_getD f hp]
    rfl
  · rintro y x _ _ hy hx rfl rfl
    have hq : y * (w / 2) + x < w * h / 4 := by
      rw [← hU, chromaPlane_length]; exact index_lt_of_row_lt hy hx
    constructor
    · rw [cscEncodeFrame, List.append_assoc, List.getD_append_right _ _ _ _ (by simp), lumaPlane_length,
        Nat.add_sub_cancel_left, List.getD_append _ _ _ _ (by rwa [hU]), chromaPlane_getD _ _ hy hx]
      exact mean4_toNat _ _ _ _
    · have hlen : (lumaPlane f w h ++ chromaPlane chromaU f w h).length = w * h + w * h / 4 := by
        simp only [List.length_append, lumaPlane_length, hU]
      rw [cscEncodeFrame, List.getD_append_right _ _ _ _ (by rw [hlen]; omega), hlen,
        Nat.add_sub_cancel_left, chromaPlane_getD _ _ hy hx]
      exact mean4_toNat _ _ _ _

/-! ## The decoded frame (R151, R155) -/

/-- Row `j` of a decoded frame. -/
theorem decodedRow_length (w h : Nat) (f : Frame) (j : Nat) :
    ((List.range w).flatMap fun k => pixelYuv w h f j k).length = w * 3 :=
  length_range_flatMap_parts (pixelYuv_length w h f j) w

theorem cscDecodeFrame_length (w h : Nat) (f : Frame) : (cscDecodeFrame w h f).length = 3 * w * h := by
  rw [cscDecodeFrame, length_range_flatMap_parts (decodedRow_length w h f)]
  ring

/-- Byte `c` of the pixel at row `j`, column `k` of a decoded frame. -/
theorem cscDecodeFrame_getD {w h j k c : Nat} (f : Frame) (hj : j < h) (hk : k < w) (hc : c < 3) :
    (cscDecodeFrame w h f).getD (3 * (j * w + k) + c) 0 = (pixelYuv w h f j k).getD c 0 := by
  have hrow : k * 3 + c < w * 3 := index_lt_of_row_lt hk hc
  have hindex : 3 * (j * w + k) + c = j * (w * 3) + (k * 3 + c) := by ring
  rw [hindex, cscDecodeFrame, getD_range_flatMap_parts (decodedRow_length w h f) hj hrow,
    getD_range_flatMap_parts (pixelYuv_length w h f j) hk hc]

/-- Settles O48: the three bytes of a pixel are those of `pixelYuv`. -/
theorem decodedFrameLayout : Obligations.DecodedFrameLayout := by
  intro f w h _ _ _
  refine ⟨cscDecodeFrame_length w h f, ?_⟩
  rintro j k _ _ hj hk rfl rfl y u v rfl rfl rfl
  exact ⟨cscDecodeFrame_getD f hj hk (c := 0) (by decide), cscDecodeFrame_getD f hj hk (c := 1) (by decide),
    cscDecodeFrame_getD f hj hk (c := 2) (by decide)⟩

end Sys2Proof.Machine

/-! SUPPORT. The run-length code, run by run and pair by pair (spec/42_delta_rle_codec.md R181, R182, R186), and the
records of a DRLE_ENC stream (R195, R198). -/
namespace Sys2Proof.Machine

/-! ## The encoder on a run (R181) -/

/-- An open run takes in further copies of its byte while its count stays within 255. -/
theorem rleRun_replicate {v : Byte} {c n : Nat} (h : c + n ≤ 255) (t : List Byte) :
    rleRun v c (List.replicate n v ++ t) = rleRun v (c + n) t := by
  induction n generalizing c with
  | zero => rfl
  | succ n ih =>
    rw [List.replicate_succ, List.cons_append, rleRun_same (by omega), ih (by omega), Nat.add_right_comm, Nat.add_assoc]

/-- A run that is full, or not followed by its byte, is written out, and encoding starts afresh. -/
theorem rleRun_maximal {v : Byte} {c : Nat} {t : List Byte} (h : c = 255 ∨ t.head? ≠ some v) :
    rleRun v c t = BitVec.ofNat 8 c :: v :: rleEncode t := by
  cases t with
  | nil => rfl
  | cons x xs =>
    refine rleRun_close (fun ⟨hx, hc⟩ => ?_) xs
    rcases h with h | h
    · omega
    · exact h (congrArg some hx)

/-- Settles O50: the loop takes in the run's copies one by one and then closes the run. -/
theorem rleEncodesMaximalRuns : Obligations.RleEncodesMaximalRuns := by
  refine ⟨rfl, fun v c t h1 h255 hmax => ?_⟩
  obtain ⟨n, rfl⟩ := Nat.exists_eq_add_of_le h1
  calc rleEncode (List.replicate (1 + n) v ++ t)
      = rleRun v 1 (List.replicate n v ++ t) := by rw [Nat.add_comm, List.replicate_succ, List.cons_append, rleEncode]
    _ = rleRun v (1 + n) t := rleRun_replicate h255 t
    _ = BitVec.ofNat 8 (1 + n) :: v :: rleEncode t := rleRun_maximal hmax

/-! ## The size of an encoding (R182) -/

/-- An open run and the bytes after it become at least one pair and at most a pair for each byte and one for the run. -/
theorem rleRun_length (v : Byte) (c : Nat) (s : List Byte) :
    ∃ n, (rleRun v c s).length = 2 * n ∧ 1 ≤ n ∧ n ≤ s.length + 1 := by
  induction s generalizing v c with
  | nil => exact ⟨1, rfl, le_rfl, le_rfl⟩
  | cons x xs ih =>
    by_cases h : x = v ∧ c < 255
    · obtain ⟨n, hn, h1, hle⟩ := ih v (c + 1)
      exact ⟨n, by rw [rleRun, if_pos h, hn], h1, by rw [List.length_cons]; omega⟩
    · obtain ⟨n, hn, h1, hle⟩ := ih x 1
      refine ⟨n + 1, ?_, by omega, by rw [List.length_cons]; omega⟩
      rw [rleRun, if_neg h, List.length_cons, List.length_cons, hn]
      omega

/-- A buffer that is not empty becomes at least one pair and at most a pair for each byte. -/
theorem rleEncode_length {s : List Byte} (h : 0 < s.length) :
    ∃ n, (rleEncode s).length = 2 * n ∧ 1 ≤ n ∧ n ≤ s.length := by
  cases s with
  | nil => simp at h
  | cons v s => exact rleRun_length v 1 s

/-! ## The decoder on pairs (R186) -/

/-- Pairs without a zero count append their runs, and decoding goes on after them. -/
theorem rleDecodeFrom_pairs {pairs : List (Byte × Byte)} (h : ∀ p ∈ pairs, p.1 ≠ 0) (off : Nat) (t : List Byte) :
    rleDecodeFrom off (pairs.flatMap (fun p => [p.1, p.2]) ++ t)
      = { out := pairs.flatMap (fun p => List.replicate p.1.toNat p.2) ++ (rleDecodeFrom (off + 2 * pairs.length) t).out
          bad := (rleDecodeFrom (off + 2 * pairs.length) t).bad } := by
  induction pairs generalizing off with
  | nil => rfl
  | cons p pairs ih =>
    obtain ⟨hp, hpairs⟩ := List.forall_mem_cons.1 h
    have hoff : off + 2 + 2 * pairs.length = off + 2 * (p :: pairs).length := by rw [List.length_cons]; omega
    simp only [List.flatMap_cons, List.cons_append, List.nil_append, List.append_assoc, rleDecodeFrom_pair hp, ih hpairs,
      hoff]

/-- Settles O52: the pairs before a zero count give their runs, and the zero count stops the decoder. -/
theorem rleDecodesPairs : Obligations.RleDecodesPairs := by
  rintro pairs _ rfl
  refine ⟨fun h => ?_, fun k hk h hz => ?_⟩
  · simpa [rleDecode, rleDecodeFrom] using rleDecodeFrom_pairs h 0 []
  · rw [List.getD_eq_getElem _ _ hk] at hz
    have hlen : (pairs.take k).length = k := List.length_take_of_le hk.le
    have hbytes : pairs.flatMap (fun p => [p.1, p.2])
        = (pairs.take k).flatMap (fun p => [p.1, p.2])
          ++ 0 :: pairs[k].2 :: (pairs.drop (k + 1)).flatMap fun p => [p.1, p.2] := by
      conv_lhs => rw [← List.take_append_drop k pairs, List.drop_eq_getElem_cons hk, List.flatMap_append,
        List.flatMap_cons, hz]
      rfl
    rw [hbytes, rleDecode, rleDecodeFrom_pairs h, rleDecodeFrom_zero, hlen, List.append_nil, Nat.zero_add]

/-! ## The record stream (R195, R198) -/

/-- Each delta frame is taken against the original frame before it (R171). -/
theorem deltaAfter_eq_zip (prev : Frame) (fs : List Frame) :
    deltaAfter prev fs = ((prev :: fs).zip fs).map fun pc => subFrame pc.2 pc.1 := by
  induction fs generalizing prev with
  | nil => rfl
  | cons cur rest ih => rw [deltaAfter, ih, List.zip_cons_cons, List.map_cons]

/-- Frame 0 is a RAW record, and each later frame an RLE record of its delta frame. -/
theorem drleEncode_cons (frame : Frame) (rest : List Frame) :
    drleEncode (frame :: rest)
      = drleRecord 0x00 frame
        ++ ((frame :: rest).zip rest).flatMap fun pc => drleRecord 0x01 (rleEncode (subFrame pc.2 pc.1)) := by
  simp only [drleEncode, drleBodies, deltaEncodeSeq, deltaAfter_eq_zip, List.flatMap_cons, List.flatMap_map]

/-- Settles O54: the stream is its records (`drleEncode_cons`), and a run-length body is one pair or more (R182). -/
theorem drleRecordFormat : Obligations.DrleRecordFormat := by
  refine ⟨rfl, fun x hx => ?_, fun f frame rest hlen => ?_⟩
  · obtain ⟨n, hn, h1, hle⟩ := rleEncode_length hx
    omega
  · obtain rfl : frame.length = f := hlen frame List.mem_cons_self
    exact drleEncode_cons frame rest

end Sys2Proof.Machine

/-! SUPPORT. What a reset leaves: every register at its reset value, and memory outside the write region of the command
it aborts (spec/70_reset_and_hazards.md R240). -/
namespace Sys2Proof.Machine

/-! ## The register window after a reset (R23, R40) -/

theorem State.statusWord_resetMachine (s : State) : s.resetMachine.statusWord = 0 := by
  have hb : s.resetMachine.busy = false := rfl
  simp [State.statusWord, hb]

/-- Register by register. -/
theorem State.readReg_resetMachine (s : State) (r : RegName) :
    s.resetMachine.readReg r
      = if r.offset = 0x00 then 0x56454331 else if r.offset = 0x18 then capsWord s.plat else 0 := by
  cases r with
  | status => exact s.statusWord_resetMachine
  | _ => rfl

/-- Offset by offset: a register's offset reads that register, and no reserved offset is that of ID or CAPS. -/
theorem State.readOffset_resetMachine (s : State) (off : Nat) :
    s.resetMachine.readOffset off = if off = 0x00 then 0x56454331 else if off = 0x18 then capsWord s.plat else 0 := by
  cases hr : regAt off with
  | some r =>
    obtain rfl : r.offset = off := regAt_eq_some hr
    rw [State.readOffset_offset, State.readReg_resetMachine]
  | none =>
    have hid : off ≠ 0x00 := by rintro rfl; cases hr
    have hcaps : off ≠ 0x18 := by rintro rfl; cases hr
    rw [State.readOffset, hr, if_neg hid, if_neg hcaps]

/-! ## Memory after a reset -/

theorem State.abortMemory_idle {s : State} (h : s.phase = .idle) : s.abortMemory = s.mem := by
  simp only [State.abortMemory, h]

/-- The bytes a BUSY reset leaves open lie in the write region, cut off at 2^32 or not (log entry 12). -/
theorem State.abortMemory_outside (s : State) {a : Nat} (ha : s.latch.operands.inWriteRegion a = false) :
    s.abortMemory.read a = s.mem.read a := by
  cases hp : s.phase with
  | idle => rw [State.abortMemory_idle hp]
  | busy =>
    simp only [State.abortMemory, hp]
    apply Memory.read_scramble_outside
    have := outside_of_inWriteRegion ha
    omega

/-- Settles O15: the turn is `resetMachine`, seen through its registers and its memory. -/
theorem hardResetClearsRegisters : Obligations.HardResetClearsRegisters := fun s =>
  ⟨s.resetMachine, rfl, s.readOffset_resetMachine, rfl, rfl, rfl, State.abortMemory_idle, fun _ => s.abortMemory_outside⟩

end Sys2Proof.Machine

/-! SUPPORT. Encoding and decoding are inverse to each other (spec/30_encoding.md R90, R91, R95). -/
namespace Sys2Proof
open Machine

/-- RSVD and OPCODE are the whole word (R90). -/
theorem rsvdField_append_opcodeField (w : Word) : rsvdField w ++ opcodeField w = w := by
  ext i hi
  simp only [rsvdField, opcodeField, BitVec.getElem_append, BitVec.getElem_extractLsb']
  split
  · simp [hi]
  · simp [show 8 + (i - 8) = i by omega, hi]

/-- A word that decodes has RSVD 0 and the command's OPCODE (R91, R95). -/
theorem fields_of_decode_ok {w : Word} {i : Instr} (h : decode w = .ok i) :
    rsvdField w = 0 ∧ opcodeField w = i.opcode := by
  have hr : rsvdField w = 0 := by
    by_contra hr
    simp [decode_eq_reservedBits hr] at h
  refine ⟨hr, BitVec.eq_of_toNat_eq ?_⟩
  rw [decode, if_neg (not_not_intro hr)] at h
  split at h <;> cases h <;> assumption

/-- The four bus lanes of a command's word, lowest first (R64), with anything after them. -/
theorem decodeBytes_encode (i : Instr) (rest : List Byte) :
    decodeBytes (leBytes 4 (encode i).toNat ++ rest) = .ok (i, rest) := by
  cases i <;> rfl

/-- Settles O2: `decode_encode` one way; the other way the two fields of the word are those of the encoding. -/
theorem decodeEncodeAgree : Obligations.DecodeEncodeAgree := by
  refine ⟨fun i rest _ => ⟨decode_encode i, decodeBytes_encode i rest⟩, fun w i h => ?_⟩
  obtain ⟨hr, ho⟩ := fields_of_decode_ok h
  rw [← rsvdField_append_opcodeField w, hr, ho, encode]

/-- Settles O3: each word is evaluated. -/
theorem writtenWordsDecode : Obligations.WrittenWordsDecode := by
  unfold Obligations.WrittenWordsDecode
  decide

end Sys2Proof

/-! SUPPORT. What one turn can do to the state, and what every step therefore keeps (spec/40_command_execution.md
R110). -/
namespace Sys2Proof.Machine

/-! ## The fields of a completed state (R126) -/

@[simp] theorem complete_phase (s : State) (v : Verdict) : (s.complete v).phase = .idle := by rw [complete_frame]

@[simp] theorem complete_done (s : State) (v : Verdict) : (s.complete v).done = true := by rw [complete_frame]

@[simp] theorem complete_error (s : State) (v : Verdict) :
    (s.complete v).error = ((s.complete v).errcode != 0) := by rw [complete_frame]

@[simp] theorem complete_plat (s : State) (v : Verdict) : (s.complete v).plat = s.plat := by rw [complete_frame]

@[simp] theorem complete_agenda (s : State) (v : Verdict) : (s.complete v).agenda = s.agenda := by rw [complete_frame]

/-! ## The effect of a turn -/

/-- The outcome of the engine's completion step in a state: a decoded command's, or ERR_BAD_CMD (R112, R115). -/
def EngineVerdict (s : State) (v : Verdict) : Prop :=
  (∃ i, decode s.latch.cmd = .ok i ∧ v = verdictOf i s)
    ∨ ((∃ e, decode s.latch.cmd = .error e) ∧ v = .pre (.badCmd s.latch.cmd))

/-- Everything a turn that answers a next state can do to a state (`takeTurn_effect`). -/
inductive TurnEffect (s : State) : Turn → State → Prop
  /-- An IDLE engine's turn and an ignored register write. -/
  | stays (turn : Turn) : TurnEffect s turn s
  /-- A register read. -/
  | lanes (turn : Turn) (bytes : List Byte) : TurnEffect s turn { s with busData := bytes }
  | memRead (turn : Turn) (a n : Nat) : TurnEffect s turn (s.hostMemRead a n)
  | memWrite (a : Word) (data : List Byte) (hr : route s.plat a.toNat data.length = .memory) :
      TurnEffect s (.hostWrite a data) (s.hostMemWrite a.toNat data)
  /-- Hardware reset, and the soft reset of a CTRL write. -/
  | resets (turn : Turn) : TurnEffect s turn s.resetMachine
  | accepts (turn : Turn) (w : Word) : TurnEffect s turn (s.accept w)
  | irqEn (turn : Turn) (v : Word) : TurnEffect s turn (s.writeIrqEn v)
  | irqStatus (turn : Turn) (v : Word) : TurnEffect s turn (s.writeIrqStatus v)
  | operands (turn : Turn) (o : Operands) : TurnEffect s turn { s with operands := o }
  | completes (v : Verdict) (hb : s.phase = .busy) (hv : EngineVerdict s v) :
      TurnEffect s .completion (s.complete v)

theorem engineTurn_effect {s t : State} (h : engineTurn s = .next t) : TurnEffect s .completion t := by
  rcases engineTurn_cases s with ⟨-, hs⟩ | ⟨hb, v, hs, hv⟩ <;> rw [hs] at h <;> cases h
  · exact .stays _
  · exact .completes v hb hv

theorem takeTurn_effect {s t : State} {turn : Turn} (h : takeTurn turn s = .next t) : TurnEffect s turn t := by
  cases turn with
  | hostRead a n =>
    rcases hostRead_cases h with ⟨off, rfl⟩ | ⟨-, rfl⟩
    · exact .lanes _ _
    · exact .memRead _ _ _
  | hostWrite a data =>
    rcases hostWrite_cases h with ⟨off, v, rfl⟩ | ⟨hr, rfl⟩
    · rcases writeOffset_cases s off v with he | he | ⟨-, he⟩ | he | he | ⟨o, he⟩ <;> rw [he]
      · exact .stays _
      · exact .resets _
      · exact .accepts _ v
      · exact .irqEn _ v
      · exact .irqStatus _ v
      · exact .operands _ o
    · exact .memWrite a data hr
  | hardReset =>
    cases h
    exact .resets _
  | completion => exact engineTurn_effect h

/-- The turn a step takes: the agenda's first, or, with none waiting, the engine's. -/
def State.nextTurn (s : State) : Turn := s.agenda.headD .completion

/-- A step takes one turn, and takes it off the agenda. -/
theorem step_effect {s t : State} (h : step s = .next t) :
    TurnEffect { s with agenda := s.agenda.tail } s.nextTurn t := by
  cases ha : s.agenda with
  | nil =>
    rw [step_nil ha] at h
    have hs : { s with agenda := [] } = s := by rw [← ha]
    simpa only [State.nextTurn, ha, List.tail_nil, List.headD_nil, hs] using engineTurn_effect h
  | cons turn rest =>
    rw [step_cons ha] at h
    simpa only [State.nextTurn, ha, List.tail_cons, List.headD_cons] using takeTurn_effect h

/-! ## The platform and the agenda -/

theorem TurnEffect.plat_agenda {s t : State} {turn : Turn} (h : TurnEffect s turn t) :
    t.plat = s.plat ∧ t.agenda = s.agenda := by
  cases h with
  | completes v => exact ⟨complete_plat s v, complete_agenda s v⟩
  | _ => exact ⟨rfl, rfl⟩

/-- Settles O58: no turn's effect reaches the platform or the agenda it was taken off. -/
theorem stepKeepsPlatform : Obligations.StepKeepsPlatform :=
  fun _ _ h => (step_effect h).plat_agenda

/-! ## Memory -/

theorem hostMemWrite_outside (s : State) {a x : Nat} {data : List Byte} (hx : x < a ∨ a + data.length ≤ x) :
    (s.hostMemWrite a data).byteAt x = s.byteAt x :=
  Memory.read_writeBytes_outside s.mem (by simpa using hx)

/-- A byte that a turn changes lies in the write region of a running command or in the range a host write stores to. -/
theorem TurnEffect.changed_byte {s t : State} {turn : Turn} (h : TurnEffect s turn t) {x : Nat}
    (hx : t.byteAt x ≠ s.byteAt x) :
    (s.phase = .busy ∧ s.latch.operands.inWriteRegion x = true)
    ∨ ∃ a data, turn = .hostWrite a data ∧ a.toNat ≤ x ∧ x < a.toNat + data.length := by
  cases h with
  | stays | lanes | memRead | accepts | irqEn | irqStatus | operands => exact absurd rfl hx
  | memWrite a data =>
    refine .inr ⟨a, data, rfl, ?_⟩
    by_contra hout
    exact hx (hostMemWrite_outside s (by omega))
  | resets =>
    have hb : s.phase = .busy := by
      cases hp : s.phase with
      | busy => rfl
      | idle => exact absurd (congrArg (Memory.read · x) (State.abortMemory_idle hp)) hx
    exact .inl ⟨hb, by by_contra hw; exact hx (s.abortMemory_outside (by simpa using hw))⟩
  | completes v hb hv =>
    exact .inl ⟨hb, by by_contra hw; exact hx (complete_outside s v (engineTurn_fits hv) (by simpa using hw))⟩

/-- Settles O59: `TurnEffect.changed_byte` of the turn the step takes. -/
theorem memoryChangesOnlyWhereAllowed : Obligations.MemoryChangesOnlyWhereAllowed := by
  intro s t x h hx
  refine (step_effect h).changed_byte hx |>.imp_right ?_
  rintro ⟨a, data, hturn, hrange⟩
  cases ha : s.agenda with
  | nil => simp [State.nextTurn, ha] at hturn
  | cons turn rest => exact ⟨a, data, rest, by simpa [State.nextTurn, ha] using hturn, hrange⟩

/-! ## The flags -/

/-- A turn that is no completion sets no flag and no pending bit. -/
theorem TurnEffect.completes_or_flags {s t : State} {turn : Turn} (h : TurnEffect s turn t) :
    (s.phase = .busy ∧ t.phase = .idle ∧ turn = .completion)
    ∨ (∀ i, t.irqStatus.getLsbD i = true → s.irqStatus.getLsbD i = true) ∧ (t.done = true → s.done = true)
        ∧ (t.error = true → s.error = true) := by
  cases h with
  | completes v hb => exact .inl ⟨hb, complete_phase s v, rfl⟩
  | irqStatus =>
    refine .inr ⟨fun i hi => ?_, id, id⟩
    rw [State.writeIrqStatus_irqStatus, BitVec.getLsbD_and, Bool.and_eq_true] at hi
    exact hi.1
  | resets => exact .inr (by simp)
  | accepts => exact .inr ⟨fun _ => id, by simp, by simp⟩
  | _ => exact .inr ⟨fun _ => id, id, id⟩

/-- Settles O60: a step that sets a flag takes a turn that completes a command. -/
theorem onlyCompletionSetsFlags : Obligations.OnlyCompletionSetsFlags := by
  intro s t h hset
  rcases (step_effect h).completes_or_flags with ⟨hb, hi, hturn⟩ | ⟨hirq, hdone, herr⟩
  · refine ⟨hb, hi, ?_⟩
    cases ha : s.agenda with
    | nil => exact .inl rfl
    | cons turn rest => exact .inr ⟨rest, by simpa [State.nextTurn, ha] using hturn⟩
  · rcases hset with ⟨i, -, hclear, hi⟩ | ⟨hclear, hd⟩ | ⟨hclear, he⟩
    · exact absurd (hirq i hi) (by simp [hclear])
    · exact absurd (hdone hd) (by simp [hclear])
    · exact absurd (herr he) (by simp [hclear])

/-! ## The invariant -/

/-- A command that gets past its prechecks has both regions inside the address space (R118). -/
theorem EngineVerdict.pre_or_range {s : State} {v : Verdict} (h : EngineVerdict s v) :
    (∃ e, v = .pre e) ∨ RangePasses s.latch.operands := by
  rcases h with ⟨i, -, rfl⟩ | ⟨-, rfl⟩
  · rcases verdictOf_cases i s with ⟨-, e, -, he⟩ | ⟨hp, -⟩ | ⟨hp, -⟩
    · exact .inl ⟨e, he⟩
    · exact .inr hp.2.1
    · exact .inr hp.2.1
  · exact .inl ⟨_, rfl⟩

/-- A completion writes inside the address space only. -/
theorem complete_mem_wf {s : State} {v : Verdict} (hm : s.mem.wf) (hv : EngineVerdict s v) : (s.complete v).mem.wf := by
  simp only [State.complete]
  split
  · simp only [State.finishFlags_mem, State.spoilRace_mem]
    split
    · next hr => exact Memory.wf_scramble hm ((rangeCheck_eq_none_iff _).1 hr).2
    · exact hm
  · rcases hv.pre_or_range with ⟨e, rfl⟩ | ⟨-, hdst⟩
    · exact hm
    · cases v with
      | ok r =>
        have hfit := engineTurn_fits hv r rfl
        exact Memory.wf_writeBytes hm (by omega)
      | pre e => exact hm
      | exec e => exact Memory.wf_scramble hm hdst

/-- An aborted command's bytes of any value end at 2^32 (log entry 12). -/
theorem abortMemory_wf {s : State} (hm : s.mem.wf) : s.abortMemory.wf := by
  unfold State.abortMemory
  split
  · exact hm
  · exact Memory.wf_scramble hm (by omega)

theorem TurnEffect.keeps_inv {s t : State} {turn : Turn} (h : TurnEffect s turn t) (hs : s.Inv) : t.Inv := by
  obtain ⟨hm, hp, hbusy, herr, hcode, hdone⟩ := hs
  cases h with
  | stays | lanes | memRead | irqEn | irqStatus | operands => exact ⟨hm, hp, hbusy, herr, hcode, hdone⟩
  | memWrite a data hr =>
    exact ⟨Memory.wf_writeBytes hm (by simpa using route_memory_le hr), hp, hbusy, herr, hcode, hdone⟩
  | resets => exact ⟨abortMemory_wf hm, hp, by simp, rfl, by simp, by simp⟩
  | accepts => exact ⟨hm, hp, fun _ => ⟨rfl, rfl, rfl, rfl, rfl⟩, rfl, by simp, by simp⟩
  | completes v hb hv =>
    exact ⟨complete_mem_wf hm hv, by rwa [complete_plat], by simp, complete_error s v,
      complete_errcode_le_seven s v, fun _ => complete_done s v⟩

/-- Settles O57: no turn's effect breaks the invariant, which does not mention the agenda. -/
theorem stepKeepsInvariant : Obligations.StepKeepsInvariant :=
  fun _ _ hs h => (step_effect h).keeps_inv hs

/-- Settles O56: each part of the invariant is evaluated. -/
theorem resetMeetsInvariant : Obligations.ResetMeetsInvariant := by
  unfold Obligations.ResetMeetsInvariant
  decide

/-! ## The turn of a step -/

/-- Settles O14: `step_nil` and `step_cons`, and the engine's turn by its phase. -/
theorem stepRunsDecodedCommand : Obligations.StepRunsDecodedCommand := by
  intro s i
  have engine_busy : ∀ s : State, s.phase = .busy → decode s.latch.cmd = .ok i → engineTurn s = exec i s :=
    fun s hb hd => by rw [engineTurn_of_decode_ok hb hd, exec_eq]
  have engine_idle : s.phase = .idle → engineTurn s = .next s := fun hi => by simp only [engineTurn, hi]
  refine ⟨fun hb hd ha => ?_, fun rest hb hd ha => ?_, fun hi ha => ?_, engine_idle, fun t rest ha => step_cons ha⟩
  · rw [step_nil ha, engine_busy s hb hd]
  · rw [step_cons ha]
    exact engine_busy { s with agenda := rest } hb hd
  · rw [step_nil ha, engine_idle hi]

/-- Settles O18: a BUSY engine's turn is a completion, which ends in IDLE with DONE set. -/
theorem busyEngineCompletes : Obligations.BusyEngineCompletes := by
  intro s hb ha
  rcases engineTurn_cases s with ⟨hi, -⟩ | ⟨-, v, hv, -⟩
  · simp [hb] at hi
  · exact ⟨s.complete v, (step_nil ha).trans hv, complete_phase s v, complete_done s v⟩

end Sys2Proof.Machine

/-! SUPPORT. STATUS, the operand registers and the reads of the window, offset by offset (spec/10_state.md R23, R27, R31
to R36, R40, R41), and the accesses the window refuses (spec/20_memory.md R67). -/
namespace Sys2Proof.Machine

/-! ## STATUS (R27) -/

theorem busy_eq_true_iff (s : State) : s.busy = true ↔ s.phase = .busy := by simp [State.busy]

/-- The four flag bits stand below ERRCODE. -/
theorem statusWord_flags (s : State) :
    s.statusWord.getLsbD 0 = s.busy ∧ s.statusWord.getLsbD 1 = s.done ∧ s.statusWord.getLsbD 2 = s.error
      ∧ s.statusWord.getLsbD 3 = false := by
  simp only [State.statusWord, BitVec.getLsbD_append]
  simp

/-- Bit 4 and the bits above it are ERRCODE, with zeros above it. -/
theorem statusWord_getLsbD_add_four (s : State) (i : Nat) : s.statusWord.getLsbD (4 + i) = s.errcode.getLsbD i := by
  simp only [State.statusWord, BitVec.getLsbD_append, Nat.add_comm 4 i]
  simpa using BitVec.lt_of_getLsbD

/-- Settles O4: the flags are `statusWord_flags`, the rest is `statusWord_getLsbD_add_four`. -/
theorem statusWordFields : Obligations.StatusWordFields := by
  rintro s w rfl
  have hw : s.readOffset 0x0C = s.statusWord := rfl
  obtain ⟨hbusy, hdone, herror, hzero⟩ := statusWord_flags s
  rw [hw]
  refine ⟨by rw [hbusy, busy_eq_true_iff], hdone, herror, hzero, ?_, ?_⟩ <;> ext i hi
  · simp [statusWord_getLsbD_add_four, hi]
  · have hi8 : 8 + i = 4 + (4 + i) := by omega
    simp [hi8, statusWord_getLsbD_add_four]

/-! ## Reads of the window -/

/-- The last register of the window is ERR_INFO. -/
theorem RegName.offset_le (r : RegName) : r.offset ≤ 0x50 := by cases r <;> decide

theorem RegName.offset_injective {r r' : RegName} (h : r.offset = r'.offset) : r = r' := by
  simpa [regAt_offset] using congrArg regAt h

/-- A reserved offset of the window reads 0 (R40). -/
theorem State.readOffset_reserved (s : State) {off : Nat} (h : off = 0x1C ∨ off = 0x3C ∨ 0x54 ≤ off) :
    s.readOffset off = 0 := by
  have hnone : regAt off = none := by
    rcases h with rfl | rfl | h
    · rfl
    · rfl
    · refine Option.eq_none_iff_forall_ne_some.2 fun r hr => ?_
      have := regAt_eq_some hr
      have := r.offset_le
      omega
  rw [State.readOffset, hnone]

theorem leValue_lanes (w : Word) : leValue (leBytes 4 w.toNat) = w.toNat := by
  rw [leValue_leBytes]
  exact Nat.mod_eq_of_lt w.isLt

/-- Settles O5: a read turn puts the four lanes of the register's word on the bus, and each result offset is that of its
register. -/
theorem registerReadHasNoSideEffect : Obligations.RegisterReadHasNoSideEffect := by
  refine ⟨fun s off hp h4 hlt => ?_, fun s => ⟨rfl, rfl, rfl, rfl, rfl⟩⟩
  refine ⟨_, takeTurn_read hp h4 hlt, leBytes_length _ _, leValue_lanes _, fun hres => ?_⟩
  rw [leValue_lanes, s.readOffset_reserved hres]
  rfl

/-- Settles O16: the state after reset is a reset of itself. -/
theorem resetStateRegisters : Obligations.ResetStateRegisters :=
  ⟨State.reset.readOffset_resetMachine, rfl, rfl, rfl⟩

/-! ## Writes of the operand registers (R31 to R34, R36) -/

/-- The aligned offsets from 0x20 to 0x38 are those of the seven operand registers. -/
theorem RegName.exists_operand {off : Nat} (h4 : off % 4 = 0) (hlo : 0x20 ≤ off) (hhi : off ≤ 0x38) :
    ∃ r ∈ [RegName.srcAddr, .srcLen, .dstAddr, .dstCap, .width, .height, .frameLen], r.offset = off := by
  have hoff : off = 0x20 ∨ off = 0x24 ∨ off = 0x28 ∨ off = 0x2C ∨ off = 0x30 ∨ off = 0x34 ∨ off = 0x38 := by omega
  rcases hoff with rfl | rfl | rfl | rfl | rfl | rfl | rfl <;> decide

section OperandWrite
variable {r : RegName} (hr : r ∈ [RegName.srcAddr, .srcLen, .dstAddr, .dstCap, .width, .height, .frameLen])
include hr

/-- The write of an operand register changes an operand only. -/
theorem State.writeReg_operand (s : State) (v : Word) :
    s.writeReg r v = { s with operands := (s.writeReg r v).operands } := by
  cases r with
  | srcAddr | srcLen | dstAddr | dstCap | width | height | frameLen => rfl
  | _ => simp at hr

/-- After the write of an operand register it reads the word written, and every other register as before. -/
theorem State.readReg_writeReg_operand (s : State) (v : Word) (r' : RegName) :
    (s.writeReg r v).readReg r' = if r' = r then v else s.readReg r' := by
  cases r with
  | srcAddr | srcLen | dstAddr | dstCap | width | height | frameLen => cases r' <;> rfl
  | _ => simp at hr

theorem State.readOffset_writeReg_operand (s : State) (v : Word) {off : Nat} (h : off ≠ r.offset) :
    (s.writeReg r v).readOffset off = s.readOffset off := by
  cases hoff : regAt off with
  | none => simp only [State.readOffset, hoff]
  | some r' =>
    obtain rfl := regAt_eq_some hoff
    rw [State.readOffset_offset, State.readOffset_offset, State.readReg_writeReg_operand hr,
      if_neg fun he => h (congrArg RegName.offset he)]

end OperandWrite

/-- Settles O10: the offset is that of an operand register, whose write is `writeReg`. -/
theorem operandWriteKeepsLatch : Obligations.OperandWriteKeepsLatch := by
  intro s off v hp h4 hlo hhi
  obtain ⟨r, hr, rfl⟩ := RegName.exists_operand h4 hlo hhi
  have operand : ∀ q : RegName, r.offset = q.offset → (s.writeReg r v).operands = (s.writeReg q v).operands :=
    fun q hq => by rw [RegName.offset_injective hq]
  refine ⟨s.writeReg r v, takeTurn_writeReg hp r v, ?_, s.writeReg_operand hr v, operand .srcAddr, operand .srcLen,
    operand .dstAddr, operand .dstCap, operand .width, operand .height, operand .frameLen,
    fun off' h => s.readOffset_writeReg_operand hr v h⟩
  rw [State.readOffset_offset, State.readReg_writeReg_operand hr, if_pos rfl]

/-! ## Accesses the window refuses (R67) -/

/-- An access that touches the window and is no aligned word of it. -/
theorem route_badForm {p : Config.Platform} (hp : p.regBaseLegal = true) {a n : Nat} (hend : a + n ≤ 2 ^ 32)
    (hin : ∃ k, k < n ∧ inWindow p (a + k) = true) (hform : n ≠ 4 ∨ a % 4 ≠ 0) : route p a n = .badForm := by
  obtain ⟨k, hk, hw⟩ := hin
  simp only [inWindow, Bool.and_eq_true, decide_eq_true_eq] at hw
  simp only [Config.Platform.regBaseLegal, decide_eq_true_eq] at hp
  rw [route, if_neg (by omega), if_pos (by omega), if_neg (by omega)]

/-- Settles O12: both turns are refused on the route `badForm`. -/
theorem unalignedRegisterAccessRefused : Obligations.UnalignedRegisterAccessRefused := by
  rintro s a n data hp hend hin hform rfl
  have hr := route_badForm hp hend hin hform
  constructor
  · simp only [takeTurn, State.hostRead, hr]
  · simp only [takeTurn, State.hostWrite, hr]

end Sys2Proof.Machine

/-! SUPPORT. What a host's memory access returns, stores and marks (spec/20_memory.md R68). -/
namespace Sys2Proof.Machine

theorem takeTurn_hostWrite_memory {s : State} {a : Word} {data : List Byte}
    (hr : route s.plat a.toNat data.length = .memory) :
    takeTurn (.hostWrite a data) s = .next (s.hostMemWrite a.toNat data) := by
  simp only [takeTurn, State.hostWrite, hr]

theorem takeTurn_hostRead_memory {s : State} {a : Word} {n : Nat} (hr : route s.plat a.toNat n = .memory) :
    takeTurn (.hostRead a n) s = .next (s.hostMemRead a.toNat n) := by
  simp only [takeTurn, State.hostRead, hr]

/-! ## Bytes outside the write region of a running command (R68 (d)) -/

/-- A host write stores what it was given. -/
theorem hostMemWrite_byteAt {s : State} {a k : Nat} {data : List Byte} (hk : k < data.length)
    (hout : (s.busy && s.latch.operands.inWriteRegion (a + k)) = false) :
    (s.hostMemWrite a data).byteAt (a + k) = data.getD k 0 := by
  rw [State.byteAt, State.hostMemWrite_mem, Memory.read_writeBytes_inside _ (by simpa using hk),
    storedBytes_getElem s a k data hk, State.storedByte, hout, List.getD_eq_getElem _ _ hk]
  rfl

/-- A host read returns current memory. -/
theorem hostMemRead_busData {s : State} {a n k : Nat} (hk : k < n)
    (hout : (s.busy && s.latch.operands.inWriteRegion (a + k)) = false) :
    (s.hostMemRead a n).busData.getD k 0 = s.byteAt (a + k) := by
  have hb : s.hostByte (a + k) = s.byteAt (a + k) := by rw [State.hostByte, hout]; rfl
  simp [List.getD_eq_getElem?_getD, hk, hb]

theorem busy_of_idle {s : State} (h : s.phase = .idle) : s.busy = false := by rw [State.busy, h]; rfl

/-! ## While BUSY and while IDLE -/

/-- Settles O29: the turn is `hostMemWrite`, seen through its RACE and its bytes. -/
theorem hostWriteWhileBusy : Obligations.HostWriteWhileBusy := by
  intro s a data hb hr
  refine ⟨_, takeTurn_hostWrite_memory hr, ?_, fun k hk hout => hostMemWrite_byteAt hk (by simp [hout]),
    fun x hx => hostMemWrite_outside s hx, rfl⟩
  rw [State.hostMemWrite_race, Bool.or_eq_true, touchesFootprint_iff hb]

/-- Settles O30: the turn is `hostMemRead`, seen through its RACE and what it returns. -/
theorem hostReadWhileBusy : Obligations.HostReadWhileBusy := by
  intro s a n hb hr
  refine ⟨_, takeTurn_hostRead_memory hr, by simp, fun k hk hout => hostMemRead_busData hk (by simp [hout]), ?_, rfl⟩
  rw [State.hostMemRead_race, Bool.or_eq_true, touchesWriteRegion_iff hb]

/-- Settles O31: with no command running there is no region that an access could touch. -/
theorem hostMemoryWhileIdle : Obligations.HostMemoryWhileIdle := by
  intro s a data hi hr
  have hb := busy_of_idle hi
  refine ⟨⟨_, takeTurn_hostWrite_memory hr, fun k hk => hostMemWrite_byteAt hk (by simp [hb]),
    fun x hx => hostMemWrite_outside s hx, ?_⟩, ?_⟩
  · simp [State.hostMemWrite, touchesFootprint_idle hi, hb]
  · rw [takeTurn_hostRead_memory hr]
    simp [State.hostMemRead, touchesWriteRegion_idle hi, State.hostByte, hb, State.bytesAt, State.byteAt]

end Sys2Proof.Machine

/-! SUPPORT. The integer forms of the colour formulas and what follows from them (spec/41_color_transform.md R145, R153,
R158), and the independence of frames (R159). -/
namespace Sys2Proof.Machine

/-! ## Floor division (R145, R153) -/

/-- For a quotient that is a byte, trunc is floor and the reduction modulo 256 does nothing. -/
theorem u8Q_toNat_of_byte {num : Int} {den : Nat} (h0 : 0 ≤ num) (h : num / den < 256) :
    ((u8Q num den).toNat : ℤ) = num / den := by
  have hq : 0 ≤ num / (den : ℤ) := Int.ediv_nonneg h0 (Int.natCast_nonneg den)
  rw [u8Q, truncQ, Int.tdiv_eq_ediv_of_nonneg h0, BitVec.toNat_ofInt]
  omega

/-- Clamp before the division by 1000 is clamp after it. -/
theorem u8Q_clampQ_eq (num : Int) : ((u8Q (clampQ num 1000 0 255) 1000).toNat : ℤ) = max 0 (min 255 (num / 1000)) := by
  have hlo : 0 ≤ clampQ num 1000 0 255 := by unfold clampQ; split <;> omega
  have hdiv : clampQ num 1000 0 255 / (1000 : ℕ) = max 0 (min 255 (num / 1000)) := by
    unfold clampQ; split <;> omega
  rw [u8Q_toNat_of_byte hlo (by omega), hdiv]

/-- Settles O45: every forward quotient is a byte, and the inverse ones are clamped to one. -/
theorem integerFormsAgree : Obligations.IntegerFormsAgree := by
  refine ⟨fun r g b => ?_, fun y u v _ _ _ _ => ⟨u8Q_clampQ_eq _, u8Q_clampQ_eq _, u8Q_clampQ_eq _⟩⟩
  have byte : ∀ x : Byte, byteInt x = x.toNat ∧ x.toNat < 256 := fun x => ⟨rfl, x.isLt⟩
  have hr := byte r
  have hg := byte g
  have hb := byte b
  refine ⟨?_, u8Q_toNat_of_byte (by omega) (by omega), u8Q_toNat_of_byte (by omega) (by omega)⟩
  have hY : ((lumaY r g b).toNat : ℤ) = (299 * byteInt r + 587 * byteInt g + 114 * byteInt b) / 1000 / (1 : ℕ) :=
    u8Q_toNat_of_byte (num := (299 * byteInt r + 587 * byteInt g + 114 * byteInt b) / 1000) (by omega) (by omega)
  omega

/-! ## The round trip (R158) -/

theorem chromaOffset_bounds (b : Byte) : -128 ≤ chromaOffset b ∧ chromaOffset b ≤ 127 := by
  have := b.isLt
  simp only [chromaOffset, byteInt]
  omega

/-- Settles O46: in the integer forms each error is linear in r, g and b up to the remainders of the divisions; the
three colours that reach the bounds are evaluated. -/
theorem roundTripErrorBounds : Obligations.RoundTripErrorBounds := by
  refine ⟨fun r g b => ?_, by decide, by decide, by decide⟩
  have hr := r.isLt
  have hg := g.isLt
  have hb := b.isLt
  obtain ⟨hy, hu, hv⟩ := integerFormsAgree.1 r g b
  obtain ⟨hu1, hu2⟩ := chromaOffset_bounds (chromaU r g b)
  obtain ⟨hv1, hv2⟩ := chromaOffset_bounds (chromaV r g b)
  obtain ⟨hred, hgreen, hblue⟩ := integerFormsAgree.2 (lumaY r g b) _ _ hu1 hu2 hv1 hv2
  rw [hred, hgreen, hblue]
  simp only [chromaOffset, byteInt, hy, hu, hv, abs_le]
  refine ⟨⟨?_, ?_⟩, ⟨?_, ?_⟩, ⟨?_, ?_⟩⟩ <;> omega

end Sys2Proof.Machine

/-! SUPPORT. The output of a frame-by-frame command, frame by frame (spec/41_color_transform.md R159). -/
namespace Sys2Proof.Machine

theorem Memory.readBytes_congr {m m' : Memory} {a n : Nat} (h : ∀ k, k < n → m.read (a + k) = m'.read (a + k)) :
    m.readBytes a n = m'.readBytes a n :=
  List.map_congr_left fun k hk => h k (List.mem_range.1 hk)

/-- Byte `k` of output frame `i`, where a frame of `fin` bytes becomes one of `n`. -/
theorem flatMap_framesOf_getD {f : Frame → Frame} {fin n : Nat} (hf : ∀ x : Frame, x.length = fin → (f x).length = n)
    (o : Operands) (m : Memory) {i k : Nat} (hi : i < o.srcLen.toNat / fin) (hk : k < n) :
    ((framesOf o m fin).flatMap f).getD (i * n + k) 0
      = (f (m.readBytes (o.srcAddr.toNat + i * fin) fin)).getD k 0 := by
  rw [getD_flatMap_parts (fun x hx => hf x (length_of_mem_framesOf hx)) (by rwa [framesOf_length]) hk]
  simp [framesOf]

/-- For even dimensions an encoded frame has F_yuv bytes (R140). -/
theorem cscEncodeFrame_length {w h : Nat} (hw : w % 2 = 0) (hh : h % 2 = 0) (f : Frame) (hf : f.length = 3 * w * h) :
    (cscEncodeFrame w h f).length = 3 * w * h / 2 :=
  (encodedFrameLayout f w h hw hh hf).1

/-- Output frame `i` depends on source frame `i` only. -/
theorem flatMap_framesOf_congr {f : Frame → Frame} {fin n : Nat}
    (hf : ∀ x : Frame, x.length = fin → (f x).length = n) {o : Operands} {m m' : Memory} {i : Nat}
    (hi : i < o.srcLen.toNat / fin)
    (hm : ∀ k, k < fin → m.read (o.srcAddr.toNat + i * fin + k) = m'.read (o.srcAddr.toNat + i * fin + k)) (k : Nat)
    (hk : k < n) :
    ((framesOf o m fin).flatMap f).getD (i * n + k) 0 = ((framesOf o m' fin).flatMap f).getD (i * n + k) 0 := by
  rw [flatMap_framesOf_getD hf o m hi hk, flatMap_framesOf_getD hf o m' hi hk, Memory.readBytes_congr hm]

/-- Settles O42: both commands map every source frame to an output frame of one length. -/
theorem colourFramesIndependent : Obligations.ColourFramesIndependent := by
  rintro o m m' w h i rfl rfl hw hh
  exact ⟨flatMap_framesOf_congr (cscEncodeFrame_length hw hh),
    flatMap_framesOf_congr fun x _ => cscDecodeFrame_length _ _ x⟩

end Sys2Proof.Machine

/-! SUPPORT. Delta and reconstruction are inverse to each other (spec/42_delta_rle_codec.md R177). -/
namespace Sys2Proof.Machine

theorem addFrame_subFrame {cur prev : Frame} (h : cur.length = prev.length) : addFrame (subFrame cur prev) prev = cur :=
  List.ext_getElem (by simp [addFrame, subFrame, h]) fun j _ _ => by simp [addFrame, subFrame]

theorem subFrame_addFrame {d prev : Frame} (h : d.length = prev.length) : subFrame (addFrame d prev) prev = d :=
  List.ext_getElem (by simp [addFrame, subFrame, h]) fun j _ _ => by simp [addFrame, subFrame]

/-- Reconstruction takes each delta frame against the frame it was taken against. -/
theorem sumAfter_deltaAfter {f : Nat} {prev : Frame} {fs : List Frame} (hp : prev.length = f)
    (h : ∀ x ∈ fs, x.length = f) : sumAfter prev (deltaAfter prev fs) = fs := by
  induction fs generalizing prev with
  | nil => rfl
  | cons cur rest ih =>
    obtain ⟨hcur, hrest⟩ := List.forall_mem_cons.1 h
    rw [deltaAfter, sumAfter, addFrame_subFrame (hcur.trans hp.symm), ih hcur hrest]

theorem deltaAfter_sumAfter {f : Nat} {prev : Frame} {ds : List Frame} (hp : prev.length = f)
    (h : ∀ x ∈ ds, x.length = f) : deltaAfter prev (sumAfter prev ds) = ds := by
  induction ds generalizing prev with
  | nil => rfl
  | cons d rest ih =>
    obtain ⟨hd, hrest⟩ := List.forall_mem_cons.1 h
    have hsum : (addFrame d prev).length = f := by rw [addFrame_length (hd.trans hp.symm), hd]
    rw [sumAfter, deltaAfter, subFrame_addFrame (hd.trans hp.symm), ih hsum hrest]

/-- Settles O49: frame 0 passes through both, and the frames after it are `sumAfter_deltaAfter` and its converse. -/
theorem deltaIdentity : Obligations.DeltaIdentity := by
  intro f s hs
  cases s with
  | nil => exact ⟨rfl, rfl⟩
  | cons frame rest =>
    obtain ⟨hframe, hrest⟩ := List.forall_mem_cons.1 hs
    exact ⟨congrArg (frame :: ·) (sumAfter_deltaAfter hframe hrest),
      congrArg (frame :: ·) (deltaAfter_sumAfter hframe hrest)⟩

/-- Delta frames have the length of the frames. -/
theorem length_of_mem_deltaAfter {f : Nat} {prev : Frame} {fs : List Frame} (hp : prev.length = f)
    (h : ∀ x ∈ fs, x.length = f) : ∀ d ∈ deltaAfter prev fs, d.length = f := by
  induction fs generalizing prev with
  | nil => simp [deltaAfter]
  | cons cur rest ih =>
    obtain ⟨hcur, hrest⟩ := List.forall_mem_cons.1 h
    exact List.forall_mem_cons.2 ⟨by rw [subFrame_length (hcur.trans hp.symm), hcur], ih hcur hrest⟩

end Sys2Proof.Machine

/-! SUPPORT. A run-length encoding as the pairs it is made of: decoding it, its counts and its lengths
(spec/42_delta_rle_codec.md R181, R182, R189). -/
namespace Sys2Proof.Machine

/-! ## Pairs -/

/-- The bytes of a list of pairs (count, value). -/
def pairBytes (pairs : List (Byte × Byte)) : List Byte := pairs.flatMap fun p => [p.1, p.2]

/-- The runs that a list of pairs stands for. -/
def pairRuns (pairs : List (Byte × Byte)) : List Byte := pairs.flatMap fun p => List.replicate p.1.toNat p.2

theorem pairBytes_length (pairs : List (Byte × Byte)) : (pairBytes pairs).length = 2 * pairs.length := by
  simp [pairBytes, List.length_flatMap, Nat.mul_comm]

/-- A count stands at every even index. -/
theorem pairBytes_getD (pairs : List (Byte × Byte)) (k : Nat) :
    (pairBytes pairs).getD (2 * k) 0 = (pairs.getD k (0, 0)).1 := by
  induction pairs generalizing k with
  | nil => rfl
  | cons p pairs ih =>
    cases k with
    | zero => rfl
    | succ k => exact ih k

/-- Pairs without a zero count stand for at least one byte each, and at most 255. -/
theorem pairRuns_length {pairs : List (Byte × Byte)} (h : ∀ p ∈ pairs, p.1 ≠ 0) :
    pairs.length ≤ (pairRuns pairs).length ∧ (pairRuns pairs).length ≤ 255 * pairs.length := by
  induction pairs with
  | nil => exact ⟨le_rfl, le_rfl⟩
  | cons p pairs ih =>
    obtain ⟨hp, hpairs⟩ := List.forall_mem_cons.1 h
    have hcons : (pairRuns (p :: pairs)).length = p.1.toNat + (pairRuns pairs).length := by simp [pairRuns]
    have hpos : 0 < p.1.toNat := Nat.pos_of_ne_zero fun h0 => hp (BitVec.eq_of_toNat_eq h0)
    have hlt := p.1.isLt
    have := ih hpairs
    rw [hcons, List.length_cons]
    omega

/-- A count of 1 to 255 is held whole in its byte. -/
theorem count_toNat {c : Nat} (h255 : c ≤ 255) : (BitVec.ofNat 8 c).toNat = c := by
  rw [BitVec.toNat_ofNat]
  omega

theorem count_ne_zero {c : Nat} (h1 : 1 ≤ c) (h255 : c ≤ 255) : BitVec.ofNat 8 c ≠ 0 := fun h => by
  have hc := count_toNat h255
  rw [h] at hc
  exact absurd hc (by simp; omega)

/-- An open run of `c` copies of `v` and the bytes after it become pairs without a zero count that stand for them. -/
theorem rleRun_pairs {c : Nat} (h1 : 1 ≤ c) (h255 : c ≤ 255) (v : Byte) (s : List Byte) :
    ∃ pairs, rleRun v c s = pairBytes pairs ∧ (∀ p ∈ pairs, p.1 ≠ 0) ∧ pairRuns pairs = List.replicate c v ++ s := by
  induction s generalizing v c with
  | nil =>
    exact ⟨[(BitVec.ofNat 8 c, v)], rfl, by simpa using count_ne_zero h1 h255, by simp [pairRuns, count_toNat h255]⟩
  | cons x xs ih =>
    by_cases h : x = v ∧ c < 255
    · obtain ⟨rfl, hc⟩ := h
      obtain ⟨pairs, hbytes, hcounts, hruns⟩ := ih (c := c + 1) (by omega) (by omega) x
      exact ⟨pairs, by rw [rleRun_same hc, hbytes], hcounts, by simp [hruns, List.replicate_succ']⟩
    · obtain ⟨pairs, hbytes, hcounts, hruns⟩ := ih (c := 1) le_rfl (by omega) x
      refine ⟨(BitVec.ofNat 8 c, v) :: pairs, ?_, List.forall_mem_cons.2 ⟨count_ne_zero h1 h255, hcounts⟩, ?_⟩
      · rw [rleRun_close h, rleEncode, hbytes]
        rfl
      · rw [pairRuns, List.flatMap_cons, count_toNat h255, ← pairRuns, hruns]
        rfl

/-- An encoding is made of pairs without a zero count that stand for the buffer. -/
theorem rleEncode_pairs (s : List Byte) :
    ∃ pairs, rleEncode s = pairBytes pairs ∧ (∀ p ∈ pairs, p.1 ≠ 0) ∧ pairRuns pairs = s := by
  cases s with
  | nil => exact ⟨[], rfl, by simp, rfl⟩
  | cons v s => exact rleRun_pairs le_rfl (by omega) v s

/-- Settles O53: the decoder turns each pair of the encoding back into its run. -/
theorem rleRoundTrip : Obligations.RleRoundTrip := by
  intro s
  obtain ⟨pairs, hbytes, hcounts, hruns⟩ := rleEncode_pairs s
  rw [(rleDecodesPairs pairs _ hbytes).1 hcounts, ← hruns, pairRuns]

/-! ## The two extreme lengths (R182 (c), (e)) -/

/-- Equal bytes are cut into runs of 255 and a rest. -/
theorem rleEncode_replicate_length (n : Nat) (v : Byte) :
    (rleEncode (List.replicate n v)).length = (n + 254) / 255 * 2 := by
  induction n using Nat.strong_induction_on with
  | _ n ih =>
    rcases Nat.eq_zero_or_pos n with rfl | hpos
    · rfl
    · by_cases hle : n ≤ 255
      · have hone := rleEncodesMaximalRuns.2 v n [] hpos hle (.inr (by simp))
        rw [List.append_nil] at hone
        rw [hone, List.length_cons, List.length_cons, rleEncodesMaximalRuns.1, List.length_nil]
        omega
      · have hcut := rleEncodesMaximalRuns.2 v 255 (List.replicate (n - 255) v) (by omega) le_rfl (.inl rfl)
        rw [List.replicate_append_replicate, Nat.add_sub_cancel' (by omega)] at hcut
        rw [hcut, List.length_cons, List.length_cons, ih (n - 255) (by omega)]
        omega

/-- With no two adjacent equal bytes every byte is a run of its own. -/
theorem rleEncode_length_of_no_adjacent {s : List Byte} (h : ∀ k, k + 1 < s.length → s.getD k 0 ≠ s.getD (k + 1) 0) :
    (rleEncode s).length = 2 * s.length := by
  induction s with
  | nil => rfl
  | cons v s ih =>
    cases s with
    | nil => rfl
    | cons x xs =>
      have hne : v ≠ x := h 0 (by simp)
      have hrest := ih fun k hk => h (k + 1) (by simpa using hk)
      rw [rleEncode, rleRun_close fun hx => hne hx.1.symm, List.length_cons, List.length_cons, hrest,
        List.length_cons (a := v)]
      omega

/-- Settles O51: counts and bounds are those of the pairs an encoding is made of. -/
theorem rleCountsAndLengths : Obligations.RleCountsAndLengths := by
  refine ⟨fun s => ?_, rleEncode_replicate_length, fun s => rleEncode_length_of_no_adjacent⟩
  obtain ⟨pairs, hbytes, hcounts, rfl⟩ := rleEncode_pairs s
  have hbounds := pairRuns_length hcounts
  rw [hbytes, pairBytes_length]
  refine ⟨fun k hk => ?_, by omega, by omega, by omega⟩
  rw [pairBytes_getD, List.getD_eq_getElem _ _ (by omega : k < pairs.length)]
  exact hcounts _ (List.getElem_mem _)

end Sys2Proof.Machine

/-! SUPPORT. The record stream of DRLE_ENC: its length (spec/42_delta_rle_codec.md R200) and the host's staged decode
(spec/43_pipeline.md R215). -/
namespace Sys2Proof.Machine

@[simp] theorem drleBodies_length (s : List Frame) : (drleBodies s).length = s.length := by
  cases s <;> simp [drleBodies, deltaEncodeSeq]

/-- The stream is eight bytes longer per frame than its bodies (R200). -/
theorem drleEncode_length (s : List Frame) : (drleEncode s).length = 8 * s.length + drlePayload s := by
  have hsum : ∀ bodies : List (Byte × List Byte),
      (bodies.flatMap fun kb => drleRecord kb.1 kb.2).length
        = 8 * bodies.length + (bodies.map fun kb => kb.2.length).sum := by
    intro bodies
    induction bodies with
    | nil => rfl
    | cons kb bodies ih =>
      simp only [List.flatMap_cons, List.length_append, drleRecord_length, ih, List.length_cons, List.map_cons,
        List.sum_cons]
      omega
  rw [drleEncode, hsum, drleBodies_length, drlePayload]

/-! ## Unpacking (R215) -/

/-- The slot that a record with this KIND and body unpacks to: a RAW body itself, the expansion of an RLE body. -/
def recordSlot (kb : Byte × List Byte) : List Byte := if kb.1 = 0 then kb.2 else (rleDecode kb.2).out

/-- One record is unpacked and taken off the stream. -/
theorem unpackRecords_record (fuel : Nat) {kb : Byte × List Byte} (hlen : kb.2.length < 2 ^ 32) (rest : List Byte) :
    unpackRecords (fuel + 1) (drleRecord kb.1 kb.2 ++ rest)
      = (unpackRecords fuel rest).map fun slots => recordSlot kb :: slots := by
  obtain ⟨kind, body⟩ := kb
  have hstream : drleRecord kind body ++ rest = kind :: 0 :: 0 :: 0 :: (leBytes 4 body.length ++ (body ++ rest)) := by
    simp [drleRecord]
  have hfour : (leBytes 4 body.length).length = 4 := leBytes_length 4 _
  have hvalue : leValue (((drleRecord kind body ++ rest).drop 4).take 4) = body.length := by
    rw [hstream]
    exact (congrArg leValue (List.take_left' hfour)).trans ((leValue_leBytes 4 _).trans (Nat.mod_eq_of_lt hlen))
  have hbody : (drleRecord kind body ++ rest).drop 8 = body ++ rest := by
    rw [hstream]
    exact List.drop_left' hfour
  have hrest : (drleRecord kind body ++ rest).drop (8 + body.length) = rest := by
    rw [← List.drop_drop, hbody, List.drop_left]
  rw [hstream] at hvalue hbody hrest ⊢
  simp only [unpackRecords, hvalue, hbody, hrest, List.take_left, recordSlot]

/-- A stream of records is unpacked record by record. -/
theorem unpackRecords_records {bodies : List (Byte × List Byte)} (hlen : ∀ kb ∈ bodies, kb.2.length < 2 ^ 32)
    {fuel : Nat} (hfuel : bodies.length ≤ fuel) :
    unpackRecords fuel (bodies.flatMap fun kb => drleRecord kb.1 kb.2) = some (bodies.map recordSlot) := by
  induction bodies generalizing fuel with
  | nil => simp [unpackRecords]
  | cons kb bodies ih =>
    obtain ⟨hkb, hbodies⟩ := List.forall_mem_cons.1 hlen
    obtain ⟨fuel, rfl⟩ := Nat.exists_eq_add_of_le' (Nat.one_le_of_lt hfuel)
    rw [List.flatMap_cons, unpackRecords_record fuel hkb, ih hbodies (by simpa using hfuel)]
    rfl

/-- The slots of DRLE_ENC's records are the delta frames. -/
theorem map_recordSlot_drleBodies (s : List Frame) : (drleBodies s).map recordSlot = deltaEncodeSeq s := by
  have hslot : ∀ x : Frame, recordSlot (0x01, rleEncode x) = x := fun x => by simp [recordSlot, rleRoundTrip x]
  cases s with
  | nil => rfl
  | cons frame rest =>
    have hslots : ((deltaAfter frame rest).map fun x => ((0x01 : Byte), rleEncode x)).map recordSlot
        = deltaAfter frame rest := by
      rw [List.map_map]
      exact (List.map_congr_left fun x _ => hslot x).trans (List.map_id _)
    exact congrArg (frame :: ·) hslots

/-- Every body of a sequence within 2^32 bytes has a LEN that fits its field: a run-length body is at most two frames
long, and there is one only where there are two frames. -/
theorem drleBodies_length_lt {f : Nat} {s : List Frame} (hs : ∀ x ∈ s, x.length = f) (hsize : s.length * f < 2 ^ 32) :
    ∀ kb ∈ drleBodies s, kb.2.length < 2 ^ 32 := by
  cases s with
  | nil => simp [drleBodies, deltaEncodeSeq]
  | cons frame rest =>
    obtain ⟨hframe, hrest⟩ := List.forall_mem_cons.1 hs
    have hone : 1 * f ≤ (frame :: rest).length * f := Nat.mul_le_mul_right f (by simp)
    refine List.forall_mem_cons.2 ⟨show frame.length < 2 ^ 32 by omega, ?_⟩
    rintro _ hkb
    obtain ⟨d, hd, rfl⟩ := List.mem_map.1 hkb
    have htwo : 2 * f ≤ (frame :: rest).length * f := by
      refine Nat.mul_le_mul_right f ?_
      have := List.length_pos_of_mem hd
      rw [deltaAfter_length] at this
      rw [List.length_cons]
      omega
    have hdlen := length_of_mem_deltaAfter hframe hrest d hd
    obtain ⟨-, -, hle, -⟩ := rleCountsAndLengths.1 d
    rw [hdlen] at hle
    exact lt_of_le_of_lt (hle.trans htwo) hsize

/-- Settles O55: unpacking gives the delta frames, and reconstruction of these the frames (`deltaIdentity`). -/
theorem stagedDecodeRestoresFrames : Obligations.StagedDecodeRestoresFrames := by
  intro f fuel s hs hsize hfuel
  rw [drleEncode, unpackRecords_records (drleBodies_length_lt hs hsize) (by simpa using hfuel),
    map_recordSlot_drleBodies, Option.map_some, (deltaIdentity f s hs).1]

end Sys2Proof.Machine

/-! SUPPORT. How a command's completion ends, by what its run met (spec/40_command_execution.md R114 to R126). -/
namespace Sys2Proof.Machine

/-! ## The three ways, each with what leads to it -/

/-- A failed precheck is reported with its code and detail (R123). -/
theorem exec_rejected {i : Instr} {s : State} {e : CmdError} (hr : s.race = false)
    (he : prechecks (geometryOf i s) (lastCheckOf i s) s.latch.operands = some e) :
    ∃ t, exec i s = .next t ∧ RejectedWith s t e.code e.info :=
  ⟨_, by rw [exec_eq, verdictOf_pre he], complete_pre hr e⟩

/-- With every precheck passed and no execution error the output is written (R124). -/
theorem exec_succeeds {i : Instr} {s : State} {r : Run} (hr : s.race = false) (hp : PrechecksPass i s)
    (hrun : r = runOf i s.latch.operands s.mem) (hbad : r.bad = none)
    (hfit : r.out.length ≤ s.latch.operands.dstCap.toNat)
    (hsrc : Answered s.plat s.latch.operands.srcAddr.toNat r.readLen)
    (hdst : Answered s.plat s.latch.operands.dstAddr.toNat r.out.length) :
    ∃ t, exec i s = .next t ∧ SucceedsWith s t r.out r.frames r.discard r.payload := by
  subst hrun
  have hok := verdictOf_ok hp ((execErrors_eq_nil_iff _ _ _).2 ⟨hbad, hfit, hsrc, hdst⟩)
  exact ⟨_, by rw [exec_eq, hok], complete_ok hr⟩

/-- With every precheck passed and some execution error, one of the applicable ones is reported (R121, R125). -/
theorem exec_spoiled {i : Instr} {s : State} {r : Run} (hr : s.race = false) (hp : PrechecksPass i s)
    (hrun : r = runOf i s.latch.operands s.mem) (herr : execErrors s.plat s.latch.operands r ≠ []) :
    ∃ t e, exec i s = .next t ∧ SpoiledWith s t e.code e.info ∧ e ∈ execErrors s.plat s.latch.operands r := by
  subst hrun
  rcases verdictOf_cases i s with ⟨hf, -⟩ | ⟨-, hnil, -⟩ | ⟨-, e, he, hv⟩
  · exact absurd hp hf
  · exact absurd hnil herr
  · exact ⟨_, e, by rw [exec_eq, hv], complete_exec hr e, he⟩

/-! ## Illegal words and races (R92, R115, R126) -/

/-- A completion ends with some code of 0 to 7 and changes no byte outside the write region. -/
theorem complete_summary (s : State) (v : Verdict)
    (hv : ∀ r, v = .ok r → r.out.length ≤ s.latch.operands.dstCap.toNat) :
    (s.complete v).phase = .idle ∧ (s.complete v).done = true ∧ (s.complete v).errcode.toNat ≤ 7
      ∧ (s.complete v).error = ((s.complete v).errcode != 0)
      ∧ ∀ a, s.latch.operands.inWriteRegion a = false → (s.complete v).byteAt a = s.byteAt a :=
  ⟨complete_phase s v, complete_done s v, complete_errcode_le_seven s v, complete_error s v,
    fun _ ha => complete_outside s v hv ha⟩

/-- Settles O17: an illegal word's turn is the completion with ERR_BAD_CMD, raced or not. -/
theorem illegalWordCompletesWithBadCmd : Obligations.IllegalWordCompletesWithBadCmd := by
  intro s hb hw
  obtain ⟨e, hd⟩ := decode_illegal hw
  have hturn := engineTurn_of_decode_error hb hd
  exact ⟨fun hr => ⟨_, hturn, complete_pre hr _⟩, fun _ => ⟨_, hturn, complete_summary s _ fun _ h => by cases h⟩⟩

/-- Settles O27: a raced completion is one like any other, and spoils memory only where the range check passed. -/
theorem racedCompletion : Obligations.RacedCompletion := by
  intro i s hr
  obtain ⟨hphase, hdone, hcode, herr, hout⟩ := complete_summary s (verdictOf i s) fun _ h => verdictOf_ok_fits h
  refine ⟨_, exec_eq i s, hphase, hdone, hcode, herr, hout, fun hrange => ?_⟩
  have hraced : s.complete (verdictOf i s) = s.spoilRace.finishFlags (raceCode s.draws) := by simp [State.complete, hr]
  rw [hraced, State.finishFlags_mem, State.spoilRace_mem, if_neg (mt (rangeCheck_eq_none_iff _).1 hrange)]

/-- Settles O28: `complete_frame` and `complete_outside` of the command's outcome. -/
theorem completionFrame : Obligations.CompletionFrame := fun i s =>
  ⟨_, exec_eq i s, complete_frame s _, fun _ ha => complete_outside s _ (fun _ h => verdictOf_ok_fits h) ha⟩

/-! ## The prechecks (R116 to R120) -/

/-- The check that a precheck error names has failed. -/
theorem prechecks_eq_some {g : Option Nat} {l : Option CmdError} {o : Operands} {e : CmdError}
    (h : prechecks g l o = some e) :
    (∃ n, g = some n ∧ e = .geometry n) ∨ (¬ RangePasses o ∧ ∃ n, e = .range n)
      ∨ (¬ DisjointRegions o ∧ e = .overlap) ∨ l = some e := by
  rw [← rangeCheck_eq_none_iff, ← overlaps_eq_false_iff]
  unfold prechecks at h
  cases g with
  | some n => exact .inl ⟨n, rfl, by simpa using h.symm⟩
  | none =>
    cases hr : rangeCheck o with
    | some n => exact .inr (.inl ⟨by simp, n, by simpa [hr] using h.symm⟩)
    | none =>
      cases ho : overlaps o with
      | true => exact .inr (.inr (.inl ⟨by simp, by simpa [hr, ho] using h.symm⟩))
      | false => exact .inr (.inr (.inr (by simpa [hr, ho] using h)))

/-- Check 5 is RLE_DEC's. -/
theorem lastCheckOf_eq_some {i : Instr} {s : State} {e : CmdError} (h : lastCheckOf i s = some e) :
    i = .rleDec ∧ e = .rleMalformed s.latch.operands.srcLen.toNat := by
  cases i with
  | rleDec =>
    simp only [lastCheckOf, oddLength] at h
    split at h <;> simp_all
  | _ => simp [lastCheckOf] at h

/-- Only RLE_DEC's run can meet a zero count. -/
theorem runOf_bad {i : Instr} (hi : i ≠ .rleDec) (o : Operands) (m : Memory) : (runOf i o m).bad = none := by
  cases i with
  | rleDec => exact absurd rfl hi
  | _ => rfl

/-- The code that an outcome is reported with, unless there is a race (R126). -/
def Verdict.code : Verdict → BitVec 4
  | .ok _ => 0
  | .pre e => e.code
  | .exec e => e.code

theorem complete_errcode {s : State} (hr : s.race = false) (v : Verdict) : (s.complete v).errcode = v.code := by
  cases v <;> simp [State.complete, hr, Verdict.code]

/-- What a code reported without a race says: 2, 3 and 4 that their check failed, 5 that the command is RLE_DEC. -/
structure CodeReasons (i : Instr) (s : State) (code : BitVec 4) : Prop where
  geometry : code = 2 → ¬ GeometryPasses i s
  range : code = 3 → ¬ RangePasses s.latch.operands
  overlap : code = 4 → ¬ DisjointRegions s.latch.operands
  malformed : code = 5 → i = .rleDec

theorem complete_codeReasons (i : Instr) {s : State} (hr : s.race = false) :
    CodeReasons i s (s.complete (verdictOf i s)).errcode := by
  rw [complete_errcode hr]
  rcases verdictOf_cases i s with ⟨-, e, he, hv⟩ | ⟨-, -, hv⟩ | ⟨-, e, he, hv⟩ <;> rw [hv]
  · rcases prechecks_eq_some he with ⟨n, hg, rfl⟩ | ⟨hrange, n, rfl⟩ | ⟨hdis, rfl⟩ | hl
    · have hgeo : ¬ GeometryPasses i s := by simp [← geometryOf_eq_none_iff, hg]
      constructor <;> simp [Verdict.code, CmdError.code, hgeo]
    · constructor <;> simp [Verdict.code, CmdError.code, hrange]
    · constructor <;> simp [Verdict.code, CmdError.code, hdis]
    · obtain ⟨hi, rfl⟩ := lastCheckOf_eq_some hl
      constructor <;> simp [Verdict.code, CmdError.code, hi]
  · constructor <;> simp [Verdict.code]
  · rcases (mem_execErrors _ _ _ _).1 he with ⟨off, hbad, rfl⟩ | ⟨-, rfl⟩ | ⟨a, -, -, rfl⟩
    · have hi : i = .rleDec := by
        by_contra hi
        simp [runOf_bad hi] at hbad
      constructor <;> simp [Verdict.code, CmdError.code, hi]
    all_goals constructor <;> simp [Verdict.code, CmdError.code]

theorem geometryCsc_width {p : Config.Platform} {o : Operands} (h : ¬ DimLegal p o.width) : geometryCsc p o = some 1 :=
  if_pos (by simpa using mt (dimIllegal_eq_false_iff p o.width).1 h)

theorem geometryCsc_height {p : Config.Platform} {o : Operands} (hw : DimLegal p o.width) (hh : ¬ DimLegal p o.height) :
    geometryCsc p o = some 2 := by
  rw [geometryCsc, (dimIllegal_eq_false_iff p o.width).2 hw, if_neg Bool.false_ne_true,
    if_pos (by simpa using mt (dimIllegal_eq_false_iff p o.height).1 hh)]

/-- A failed check 2 is reported first. -/
theorem exec_geometry {i : Instr} {s : State} {n : Nat} (hr : s.race = false) (hg : geometryOf i s = some n) :
    ∃ t, exec i s = .next t ∧ RejectedWith s t 2 (BitVec.ofNat 32 n) :=
  exec_rejected (e := .geometry n) hr (by rw [hg, prechecks_geometry])

/-- Settles O19: `exec_geometry` for each way the check fails, and code 2 says that it did. -/
theorem geometryErrors : Obligations.GeometryErrors := by
  refine fun s hr => ⟨fun i hi => ?_, fun i hi hz => ?_, fun i hg => ?_⟩
  · have hcsc : geometryOf i s = geometryCsc s.plat s.latch.operands := by rcases hi with rfl | rfl <;> rfl
    exact ⟨fun hw => exec_geometry hr (hcsc.trans (geometryCsc_width hw)),
      fun hw hh => exec_geometry hr (hcsc.trans (geometryCsc_height hw hh))⟩
  · have hdelta : geometryOf i s = geometryDelta s.latch.operands := by rcases hi with rfl | rfl | rfl <;> rfl
    exact exec_geometry hr (hdelta.trans (if_pos hz))
  · exact ⟨_, exec_eq i s, fun hc => (complete_codeReasons i hr).geometry hc hg⟩

/-- Settles O20: the source is checked before the destination, and code 3 says that one of them failed. -/
theorem rangeErrors : Obligations.RangeErrors := by
  intro i s hr hg
  have hnone := (geometryOf_eq_none_iff i s).2 hg
  refine ⟨fun hsrc => ?_, fun hsrc hdst => ?_, fun hrange => ?_⟩
  · exact exec_rejected (e := .range 1) hr (by rw [hnone, prechecks_source hsrc])
  · exact exec_rejected (e := .range 2) hr (by rw [hnone, prechecks_destination hsrc hdst])
  · exact ⟨_, exec_eq i s, fun hc => (complete_codeReasons i hr).range hc hrange⟩

/-- Settles O21: with geometry and range legal the overlap check decides, and code 4 says that it failed. -/
theorem overlapErrors : Obligations.OverlapErrors := by
  refine fun i s hr hg hrange => ⟨fun hsrc hdst hlo hhi => ?_, fun hdis => ?_⟩
  · have hover : overlaps s.latch.operands = true := by simp [overlaps, Operands.srcEnd, Operands.dstEnd, *]
    refine exec_rejected (e := .overlap) hr ?_
    rw [(geometryOf_eq_none_iff i s).2 hg, prechecks_inRange hrange, if_pos hover]
  · exact ⟨_, exec_eq i s, fun hc => (complete_codeReasons i hr).overlap hc hdis⟩

/-- Settles O22: with legal and disjoint regions check 5 decides, and code 5 is RLE_DEC's alone. -/
theorem oddRleLengthRejected : Obligations.OddRleLengthRejected := by
  refine ⟨fun s hr hrange hdis hodd => ?_, fun i s hr hi => ?_⟩
  · have hlast : lastCheckOf .rleDec s = some (.rleMalformed s.latch.operands.srcLen.toNat) := if_pos hodd
    have hpre : prechecks (geometryOf .rleDec s) (lastCheckOf .rleDec s) s.latch.operands
        = some (.rleMalformed s.latch.operands.srcLen.toNat) := by
      rw [hlast, geometryOf, prechecks_inRange hrange, (overlaps_eq_false_iff _).2 hdis, if_neg Bool.false_ne_true]
    simpa [CmdError.code, CmdError.info] using exec_rejected hr hpre
  · exact ⟨_, exec_eq i s, fun hc => hi ((complete_codeReasons i hr).malformed hc)⟩

/-! ## Execution errors (R121, R122, R125) -/

/-- Settles O25: the error reported is in the list of `execErrors`, which holds exactly the applicable ones. -/
theorem executionErrorIsApplicable : Obligations.ExecutionErrorIsApplicable := by
  intro i s r hr hp hrun hnot
  obtain ⟨t, e, ht, hspoiled, he⟩ := exec_spoiled hr hp hrun (mt (execErrors_eq_nil_iff _ _ _).1 hnot)
  refine ⟨t, e.code, e.info, ht, hspoiled, ?_⟩
  rcases (mem_execErrors _ _ _ _).1 he with ⟨off, hbad, rfl⟩ | ⟨hcap, rfl⟩ | ⟨a, ha, hn, rfl⟩
  · exact .inl ⟨rfl, off, hbad, rfl⟩
  · exact .inr (.inl ⟨rfl, hcap, rfl⟩)
  · exact .inr (.inr ⟨rfl, a, rfl, hn, (mem_touched _ _ _).1 ha⟩)

/-- The addresses a run touches are answered when its source bytes and its output bytes inside the capacity are. -/
theorem touched_answered {s : State} {r : Run} (hsrc : Answered s.plat s.latch.operands.srcAddr.toNat r.readLen)
    (hdst : Answered s.plat s.latch.operands.dstAddr.toNat (min r.out.length s.latch.operands.dstCap.toNat)) {a : Nat}
    (ha : a ∈ touched s.latch.operands r) : engineAnswered s.plat a = true := by
  rcases (mem_touched _ _ _).1 ha with ⟨hlo, hhi⟩ | ⟨hlo, hhi⟩
  · exact (answered_iff _ _ _).1 hsrc a hlo hhi
  · exact (answered_iff _ _ _).1 hdst a hlo hhi

/-- ERR_INFO of ERR_CAPACITY: the length, or all ones where it does not fit. -/
theorem capacity_info (n : Nat) :
    (CmdError.capacity (min n (2 ^ 32 - 1))).info = if n < 2 ^ 32 then BitVec.ofNat 32 n else 0xFFFFFFFF := by
  simp only [CmdError.info]
  split
  · rw [Nat.min_eq_left (by omega)]
  · rw [Nat.min_eq_right (by omega)]
    rfl

/-- Settles O26: nothing malformed and every touched byte answered leaves the capacity as the only error. -/
theorem capacityErrorReportsLength : Obligations.CapacityErrorReportsLength := by
  intro i s r hr hp hrun hbad hcap hsrc hdst
  rw [← Nat.min_eq_right hcap.le] at hdst
  have herr : execErrors s.plat s.latch.operands r ≠ [] := fun hnil => by
    have := ((execErrors_eq_nil_iff _ _ _).1 hnil).2.1
    omega
  obtain ⟨t, e, ht, hspoiled, he⟩ := exec_spoiled hr hp hrun herr
  rcases (mem_execErrors _ _ _ _).1 he with ⟨off, hoff, -⟩ | ⟨-, rfl⟩ | ⟨a, ha, hn, -⟩
  · simp [hbad] at hoff
  · exact ⟨t, ht, by rw [← capacity_info]; exact hspoiled⟩
  · simp [touched_answered hsrc hdst ha] at hn

end Sys2Proof.Machine

/-! SUPPORT. What a completion does not read: the operand registers and CMD, and the latched operands its command
ignores (spec/10_state.md R36, spec/30_encoding.md R93). -/
namespace Sys2Proof.Machine

/-- A completion neither reads nor writes the operand registers and CMD. -/
theorem complete_registers (s : State) (v : Verdict) (o : Operands) (w : Word) :
    State.complete { s with operands := o, cmd := w } v = { s.complete v with operands := o, cmd := w } := by
  simp only [State.complete]
  split
  · rfl
  · cases v <;> rfl

/-- Settles O41: the turn's outcome is one of the latch, and its completion keeps the registers. -/
theorem runReadsOnlyTheLatch : Obligations.RunReadsOnlyTheLatch := by
  intro s o w hb
  have hb' : State.phase { s with operands := o, cmd := w } = .busy := hb
  cases hd : decode s.latch.cmd with
  | ok i =>
    refine ⟨_, engineTurn_of_decode_ok hb hd, ?_⟩
    rw [engineTurn_of_decode_ok hb' hd, complete_registers]
    rfl
  | error e =>
    refine ⟨_, engineTurn_of_decode_error hb hd, ?_⟩
    rw [engineTurn_of_decode_error hb' hd, complete_registers]

/-- A latch with another width, height and frame length. -/
def Latch.withShape (l : Latch) (w h f : Word) : Latch :=
  { l with operands := { l.operands with width := w, height := h, frameLen := f } }

/-- A completion, as against the run before it, reads no latched width, height or frame length. -/
theorem complete_withShape (s : State) (v : Verdict) (w h f : Word) :
    State.complete { s with latch := s.latch.withShape w h f } v
      = { s.complete v with latch := s.latch.withShape w h f } := by
  simp only [State.complete]
  split
  · rfl
  · cases v <;> rfl

/-- So a command whose run does not read a change of them completes alike. -/
theorem exec_withShape {i : Instr} {s : State} {w h f : Word}
    (hv : verdictOf i { s with latch := s.latch.withShape w h f } = verdictOf i s) :
    ∃ t, exec i s = .next t
      ∧ exec i { s with latch := s.latch.withShape w h f } = .next { t with latch := s.latch.withShape w h f } :=
  ⟨_, exec_eq i s, by rw [exec_eq, hv, complete_withShape]⟩

/-- Settles O40: no run of a family reads the operands that the family ignores. -/
theorem ignoredOperandsDoNotMatter : Obligations.IgnoredOperandsDoNotMatter := by
  intro s v v' v''
  refine ⟨fun i hi => ?_, fun i hi => ?_, fun i hi => ?_⟩
  · refine exec_withShape (w := s.latch.operands.width) (h := s.latch.operands.height) (f := v) ?_
    rcases hi with rfl | rfl <;> rfl
  · refine exec_withShape (w := v) (h := v') (f := s.latch.operands.frameLen) ?_
    rcases hi with rfl | rfl | rfl <;> rfl
  · refine exec_withShape (w := v) (h := v') (f := v'') ?_
    rcases hi with rfl | rfl <;> rfl

end Sys2Proof.Machine

/-! SUPPORT. The sizes and the bytes of the commands' outputs (spec/43_pipeline.md R211, spec/41_color_transform.md
R149, R155, spec/42_delta_rle_codec.md R171 to R175). -/
namespace Sys2Proof.Machine

/-! ## Parts of one length -/

theorem length_flatMap_parts {f : Frame → Frame} {n : Nat} {fs : List Frame} (hf : ∀ x ∈ fs, (f x).length = n) :
    (fs.flatMap f).length = fs.length * n := by
  rw [List.length_flatMap, List.map_congr_left hf]
  simp

theorem length_flatten_parts {n : Nat} {fs : List Frame} (h : ∀ x ∈ fs, x.length = n) :
    fs.flatten.length = fs.length * n := by
  simpa using length_flatMap_parts (f := id) h

theorem getD_flatten_parts {n : Nat} {fs : List Frame} (h : ∀ x ∈ fs, x.length = n) {i k : Nat} (hi : i < fs.length)
    (hk : k < n) : fs.flatten.getD (i * n + k) 0 = fs[i].getD k 0 := by
  simpa using getD_flatMap_parts (f := id) h hi hk

/-! ## The colour commands -/

/-- Every CSC_ENC output frame has F_yuv bytes, its dimensions being even (R116). -/
theorem cscEnc_out_length {s : State} (hp : PrechecksPass .cscEnc s) :
    (runOf .cscEnc s.latch.operands s.mem).out.length
      = s.latch.operands.srcLen.toNat / (3 * s.latch.operands.width.toNat * s.latch.operands.height.toNat)
        * (3 * s.latch.operands.width.toNat * s.latch.operands.height.toNat / 2) := by
  obtain ⟨⟨⟨hw, -⟩, ⟨hh, -⟩⟩, -⟩ := hp
  refine (length_flatMap_parts fun x hx => cscEncodeFrame_length hw hh x (length_of_mem_framesOf hx)).trans ?_
  rw [framesOf_length]

/-- Every CSC_DEC output frame has F_rgb bytes. -/
theorem cscDec_out_length (s : State) :
    (runOf .cscDec s.latch.operands s.mem).out.length
      = s.latch.operands.srcLen.toNat / (3 * s.latch.operands.width.toNat * s.latch.operands.height.toNat / 2)
        * (3 * s.latch.operands.width.toNat * s.latch.operands.height.toNat) := by
  refine (length_flatMap_parts fun x _ => cscDecodeFrame_length _ _ x).trans ?_
  rw [framesOf_length]
  rfl

/-! ## The delta commands -/

section Delta
variable {f : Nat} {fs : List Frame} (hfs : ∀ x ∈ fs, x.length = f)
include hfs

theorem length_of_mem_deltaEncodeSeq : ∀ d ∈ deltaEncodeSeq fs, d.length = f := by
  cases fs with
  | nil => simp [deltaEncodeSeq]
  | cons frame rest =>
    obtain ⟨hframe, hrest⟩ := List.forall_mem_cons.1 hfs
    exact List.forall_mem_cons.2 ⟨hframe, length_of_mem_deltaAfter hframe hrest⟩

theorem length_of_mem_deltaDecodeSeq : ∀ x ∈ deltaDecodeSeq fs, x.length = f := by
  have hsum : ∀ {prev : Frame} {ds : List Frame}, prev.length = f → (∀ d ∈ ds, d.length = f) →
      ∀ x ∈ sumAfter prev ds, x.length = f := by
    intro prev ds hp hds
    induction ds generalizing prev with
    | nil => simp [sumAfter]
    | cons d ds ih =>
      obtain ⟨hd, hds⟩ := List.forall_mem_cons.1 hds
      have hadd : (addFrame d prev).length = f := by rw [addFrame_length (hd.trans hp.symm), hd]
      exact List.forall_mem_cons.2 ⟨hadd, ih hadd hds⟩
  cases fs with
  | nil => simp [deltaDecodeSeq]
  | cons frame rest =>
    obtain ⟨hframe, hrest⟩ := List.forall_mem_cons.1 hfs
    exact List.forall_mem_cons.2 ⟨hframe, hsum hframe hrest⟩

/-- Frame 0 of a delta code is the original frame, byte by byte. -/
theorem deltaEncodeSeq_byte_first {j : Nat} (h0 : 0 < fs.length) (hj : j < f) :
    (deltaEncodeSeq fs).flatten.getD j 0 = fs.flatten.getD j 0 := by
  cases fs with
  | nil => simp at h0
  | cons frame rest =>
    have hframe : j < frame.length := by rw [hfs frame List.mem_cons_self]; exact hj
    rw [deltaEncodeSeq, List.flatten_cons, List.flatten_cons, List.getD_append _ _ _ _ hframe,
      List.getD_append _ _ _ _ hframe]

/-- Each later frame of a delta code is a frame less the original frame before it, byte by byte. -/
theorem deltaEncodeSeq_byte_later {i j : Nat} (hi : i + 1 < fs.length) (hj : j < f) :
    (deltaEncodeSeq fs).flatten.getD ((i + 1) * f + j) 0
      = fs.flatten.getD ((i + 1) * f + j) 0 - fs.flatten.getD (i * f + j) 0 := by
  have hget : (deltaEncodeSeq fs)[i + 1]'(by simpa using hi) = subFrame fs[i + 1] fs[i] := by
    cases fs with
    | nil => simp at hi
    | cons frame rest => simp [deltaEncodeSeq, deltaAfter_eq_zip]
  rw [getD_flatten_parts (length_of_mem_deltaEncodeSeq hfs) (by simpa using hi) hj, getD_flatten_parts hfs hi hj,
    getD_flatten_parts hfs (by omega) hj, hget]
  exact subFrame_getD (by rwa [hfs _ (List.getElem_mem _)]) (by rwa [hfs _ (List.getElem_mem _)])

/-- Frame 0 of a reconstruction is the delta frame itself. -/
theorem deltaDecodeSeq_byte_first {j : Nat} (h0 : 0 < fs.length) (hj : j < f) :
    (deltaDecodeSeq fs).flatten.getD j 0 = fs.flatten.getD j 0 := by
  have h := deltaEncodeSeq_byte_first (length_of_mem_deltaDecodeSeq hfs) (by simpa using h0) hj
  rw [(deltaIdentity f fs hfs).2] at h
  exact h.symm

/-- Each later frame of a reconstruction is a delta frame plus the reconstructed frame before it, for the delta code of
the reconstruction is the delta frames. -/
theorem deltaDecodeSeq_byte_later {i j : Nat} (hi : i + 1 < fs.length) (hj : j < f) :
    (deltaDecodeSeq fs).flatten.getD ((i + 1) * f + j) 0
      = fs.flatten.getD ((i + 1) * f + j) 0 + (deltaDecodeSeq fs).flatten.getD (i * f + j) 0 := by
  have h := deltaEncodeSeq_byte_later (length_of_mem_deltaDecodeSeq hfs) (by simpa using hi) hj
  rw [(deltaIdentity f fs hfs).2] at h
  rw [h, BitVec.sub_add_cancel]

end Delta

/-- The frames a delta command cuts have the latched frame length. -/
theorem length_of_mem_latchedFrames (s : State) :
    ∀ x ∈ framesOf s.latch.operands s.mem s.latch.operands.frameLen.toNat,
      x.length = s.latch.operands.frameLen.toNat :=
  fun _ => length_of_mem_framesOf

/-- Byte `j` of frame `i` of the source region. -/
theorem framesOf_flatten_getD {s : State} {f i j : Nat} (hi : i < s.latch.operands.srcLen.toNat / f) (hj : j < f) :
    (framesOf s.latch.operands s.mem f).flatten.getD (i * f + j) 0 = (s.sourceFrame f i).getD j 0 := by
  rw [getD_flatten_parts (fun x => length_of_mem_framesOf) (by simpa using hi) hj]
  simp [framesOf_latched, State.sourceFrames]

theorem framesOf_flatten_getD_first {s : State} {f j : Nat} (h0 : 0 < s.latch.operands.srcLen.toNat / f) (hj : j < f) :
    (framesOf s.latch.operands s.mem f).flatten.getD j 0 = (s.sourceFrame f 0).getD j 0 := by
  simpa using framesOf_flatten_getD h0 hj

end Sys2Proof.Machine

/-! SUPPORT. Each command runs to completion with its own output and counts (spec/40_command_execution.md R124, R128),
and every count fits its register. -/
namespace Sys2Proof.Machine

theorem SucceedsWith.results_len {s t : State} {out : List Byte} {frames discard payload : Nat}
    (h : SucceedsWith s t out frames discard payload) : t.results.len = BitVec.ofNat 32 out.length := by
  obtain ⟨-, -, ht⟩ := h
  rw [ht]

/-! ## The colour commands -/

/-- Settles O32: success with the frames' encodings, whose total length is known. -/
theorem cscEncCompletes : Obligations.CscEncCompletes := by
  rintro s _ _ _ hr hp rfl rfl rfl hfit hsrc hdst
  have hlen := cscEnc_out_length hp
  obtain ⟨t, ht, hs⟩ := exec_succeeds hr hp rfl rfl (by rwa [hlen]) hsrc (by rwa [hlen])
  exact ⟨t, ht, hs, by rw [hs.results_len, hlen], rfl⟩

/-- Settles O33: success with the frames' decodings, whose total length is known. -/
theorem cscDecCompletes : Obligations.CscDecCompletes := by
  rintro s _ _ _ hr hp rfl rfl rfl hfit hsrc hdst
  have hlen := cscDec_out_length s
  obtain ⟨t, ht, hs⟩ := exec_succeeds hr hp rfl rfl (by rwa [hlen]) hsrc (by rwa [hlen])
  exact ⟨t, ht, hs, by rw [hs.results_len, hlen], rfl⟩

/-! ## The delta commands -/

/-- Settles O34: success with the delta frames, whose bytes `deltaEncodeSeq_byte_first` and `_later` give. -/
theorem deltaEncCompletes : Obligations.DeltaEncCompletes := by
  rintro s f n hr hp rfl rfl hfit hsrc hdst
  have hfs := length_of_mem_latchedFrames s
  have hlen : (runOf .deltaEnc s.latch.operands s.mem).out.length = _ :=
    length_flatten_parts (length_of_mem_deltaEncodeSeq hfs)
  rw [deltaEncodeSeq_length, framesOf_length] at hlen
  obtain ⟨t, ht, hs⟩ := exec_succeeds hr hp rfl rfl (by rwa [hlen]) hsrc (by rwa [hlen])
  refine ⟨t, _, ht, hs, hlen, rfl, fun j hj h0 => ?_, fun i j hi hj => ?_⟩
  · exact (deltaEncodeSeq_byte_first hfs (by simpa using h0) hj).trans (framesOf_flatten_getD_first h0 hj)
  · refine (deltaEncodeSeq_byte_later hfs (by simpa using hi) hj).trans ?_
    rw [framesOf_flatten_getD hi hj, framesOf_flatten_getD (by omega) hj]

/-- Settles O35: success with the reconstruction, whose bytes `deltaDecodeSeq_byte_first` and `_later` give. -/
theorem deltaDecCompletes : Obligations.DeltaDecCompletes := by
  rintro s f n hr hp rfl rfl hfit hsrc hdst
  have hfs := length_of_mem_latchedFrames s
  have hlen : (runOf .deltaDec s.latch.operands s.mem).out.length = _ :=
    length_flatten_parts (length_of_mem_deltaDecodeSeq hfs)
  rw [deltaDecodeSeq_length, framesOf_length] at hlen
  obtain ⟨t, ht, hs⟩ := exec_succeeds hr hp rfl rfl (by rwa [hlen]) hsrc (by rwa [hlen])
  refine ⟨t, _, ht, hs, hlen, rfl, fun j hj h0 => ?_, fun i j hi hj => ?_⟩
  · exact (deltaDecodeSeq_byte_first hfs (by simpa using h0) hj).trans (framesOf_flatten_getD_first h0 hj)
  · refine (deltaDecodeSeq_byte_later hfs (by simpa using hi) hj).trans ?_
    rw [framesOf_flatten_getD hi hj]
    rfl

/-! ## The run-length commands -/

/-- Settles O36: success with the encoding of the source region. -/
theorem rleEncCompletes : Obligations.RleEncCompletes := by
  rintro s _ hr hp rfl hfit hsrc hdst
  obtain ⟨t, ht, hs⟩ := exec_succeeds hr hp rfl rfl hfit hsrc hdst
  exact ⟨t, ht, hs, rfl⟩

/-- The number of pairs that RLE_DEC reports when no count is zero (R188). -/
theorem rleDec_frames {o : Operands} {m : Memory} (h : (runOf .rleDec o m).bad = none) :
    (runOf .rleDec o m).frames = o.srcLen.toNat / 2 := by
  have hbad : (rleDecode (m.readBytes o.srcAddr.toNat o.srcLen.toNat)).bad = none := h
  simp only [runOf, computeRleDec, hbad]

/-- With the output fitting and every touched byte answered, only a zero count is an error. -/
theorem exec_malformed {i : Instr} {s : State} {r : Run} {off : Nat} (hr : s.race = false) (hp : PrechecksPass i s)
    (hrun : r = runOf i s.latch.operands s.mem) (hbad : r.bad = some off)
    (hfit : r.out.length ≤ s.latch.operands.dstCap.toNat)
    (hsrc : Answered s.plat s.latch.operands.srcAddr.toNat r.readLen)
    (hdst : Answered s.plat s.latch.operands.dstAddr.toNat r.out.length) :
    ∃ t, exec i s = .next t ∧ SpoiledWith s t 5 (BitVec.ofNat 32 off) := by
  have herr : execErrors s.plat s.latch.operands r ≠ [] := fun hnil => by
    have := ((execErrors_eq_nil_iff _ _ _).1 hnil).1
    simp [hbad] at this
  rw [← Nat.min_eq_left hfit] at hdst
  obtain ⟨t, e, ht, hspoiled, he⟩ := exec_spoiled hr hp hrun herr
  rcases (mem_execErrors _ _ _ _).1 he with ⟨off', hoff, rfl⟩ | ⟨hcap, -⟩ | ⟨a, ha, hn, -⟩
  · rw [hbad, Option.some.injEq] at hoff
    subst hoff
    exact ⟨t, ht, hspoiled⟩
  · omega
  · simp [touched_answered hsrc hdst ha] at hn

/-- Settles O37: success with the expansion when no count is zero, and the first zero count is the only error. -/
theorem rleDecCompletes : Obligations.RleDecCompletes := by
  rintro s _ hr hp rfl hfit hsrc hdst
  refine ⟨fun hbad => ?_, fun off hbad => exec_malformed hr hp rfl hbad hfit hsrc hdst⟩
  obtain ⟨t, ht, hs⟩ := exec_succeeds hr hp rfl hbad hfit hsrc hdst
  rw [rleDec_frames hbad] at hs
  exact ⟨t, ht, hs⟩

/-- Settles O38: success with the record stream, whose length is `drleEncode_length`. -/
theorem drleEncCompletes : Obligations.DrleEncCompletes := by
  rintro s _ _ _ hr hp rfl rfl rfl hfit hsrc hdst
  obtain ⟨t, ht, hs⟩ := exec_succeeds hr hp rfl rfl hfit hsrc hdst
  refine ⟨t, _, ht, hs, ?_, rfl⟩
  rw [drleEncode_length, ← framesOf_latched, framesOf_length]
  rfl

/-! ## Empty work (R128) -/

/-- A source shorter than a frame holds no whole frame and is all tail (R211). -/
theorem frameCount_empty {o : Operands} {fin : Nat} (h : o.srcLen.toNat < fin) : o.frameCount fin = 0 :=
  Nat.div_eq_of_lt h

/-- The record of a run that finds no work: nothing read or written, `discard` source bytes left over. -/
def Run.empty (discard : Nat) : Run :=
  { out := [], readLen := 0, frames := 0, discard := discard, payload := 0, bad := none }

theorem sequenceRun_empty {o : Operands} {fin : Nat} (h : o.srcLen.toNat < fin) :
    sequenceRun o fin [] 0 = Run.empty o.srcLen.toNat := by
  simp [sequenceRun, Run.empty, Operands.tail, frameCount_empty h]

theorem framesOf_empty {o : Operands} (m : Memory) {fin : Nat} (h : o.srcLen.toNat < fin) : framesOf o m fin = [] := by
  simp [framesOf, frameCount_empty h]

theorem answered_zero (p : Config.Platform) (a : Nat) : Answered p a 0 := fun k hk => absurd hk (Nat.not_lt_zero k)

/-- A run that finds no work succeeds, whatever responds. -/
theorem exec_empty {i : Instr} {s : State} {discard : Nat} (hr : s.race = false) (hp : PrechecksPass i s)
    (hrun : runOf i s.latch.operands s.mem = Run.empty discard) :
    ∃ t, exec i s = .next t ∧ SucceedsWith s t [] 0 discard 0 :=
  exec_succeeds hr hp hrun.symm rfl (Nat.zero_le _) (answered_zero _ _) (answered_zero _ _)

theorem runOf_csc_empty {i : Instr} {o : Operands} {fin : Nat} (m : Memory) (hlt : o.srcLen.toNat < fin)
    (hi : (i = .cscEnc ∧ fin = 3 * o.width.toNat * o.height.toNat)
      ∨ (i = .cscDec ∧ fin = 3 * o.width.toNat * o.height.toNat / 2)) :
    runOf i o m = Run.empty o.srcLen.toNat := by
  rcases hi with ⟨rfl, rfl⟩ | ⟨rfl, rfl⟩ <;> rw [← sequenceRun_empty hlt]
  all_goals
    simp only [runOf, computeCscEnc, computeCscDec, frameRgb, frameYuv, framesOf_empty m hlt, frameCount_empty hlt]
    simp

theorem runOf_delta_empty {i : Instr} {o : Operands} (m : Memory) (hlt : o.srcLen.toNat < o.frameLen.toNat)
    (hi : i = .deltaEnc ∨ i = .deltaDec ∨ i = .drleEnc) : runOf i o m = Run.empty o.srcLen.toNat := by
  rw [← sequenceRun_empty hlt]
  rcases hi with rfl | rfl | rfl <;>
    simp only [runOf, computeDeltaEnc, computeDeltaDec, computeDrleEnc, framesOf_empty m hlt, frameCount_empty hlt,
      Nat.zero_mul] <;>
    rfl

theorem runOf_rle_empty {i : Instr} {o : Operands} (m : Memory) (hz : o.srcLen = 0) (hi : i = .rleEnc ∨ i = .rleDec) :
    runOf i o m = Run.empty 0 := by
  have hlen : o.srcLen.toNat = 0 := by rw [hz]; rfl
  have hread : m.readBytes o.srcAddr.toNat 0 = [] := rfl
  have henc : rleEncode [] = [] := rfl
  have hdec : rleDecode [] = { out := [], bad := none } := rfl
  rcases hi with rfl | rfl
  · simp [runOf, computeRleEnc, hlen, hread, henc, Run.empty]
  · simp [runOf, computeRleDec, hlen, hread, hdec, Run.empty]

/-- Settles O39: each command's run over such a source is empty. -/
theorem emptyWorkSucceeds : Obligations.EmptyWorkSucceeds := by
  refine ⟨fun i fin s hr hp hi hlt => ?_, fun i s hr hp hi hz => exec_empty hr hp (runOf_rle_empty s.mem hz hi)⟩
  rcases hi with hi | hi | ⟨hi, rfl⟩
  · exact exec_empty hr hp (runOf_csc_empty s.mem hlt (.inl hi))
  · exact exec_empty hr hp (runOf_csc_empty s.mem hlt (.inr hi))
  · exact exec_empty hr hp (runOf_delta_empty s.mem hlt hi)

/-! ## Counts (R124) -/

/-- The counts of a run are at most the source length or the output length. -/
theorem run_counts_le {i : Instr} {s : State} {r : Run} (hp : PrechecksPass i s)
    (hrun : r = runOf i s.latch.operands s.mem) (hbad : r.bad = none) :
    (r.frames ≤ s.latch.operands.srcLen.toNat ∨ r.frames ≤ r.out.length)
    ∧ r.discard ≤ s.latch.operands.srcLen.toNat
    ∧ (r.payload ≤ s.latch.operands.srcLen.toNat ∨ r.payload ≤ r.out.length) := by
  subst hrun
  have hcount : ∀ fin, s.latch.operands.frameCount fin ≤ s.latch.operands.srcLen.toNat := Nat.div_le_self _
  have htail : ∀ fin, s.latch.operands.tail fin ≤ s.latch.operands.srcLen.toNat := fun fin => Nat.sub_le _ _
  cases i with
  | cscEnc => exact ⟨.inl (hcount _), htail _, .inr (cscEnc_out_length hp).ge⟩
  | cscDec => exact ⟨.inl (hcount _), htail _, .inr (cscDec_out_length s).ge⟩
  | deltaEnc | deltaDec => exact ⟨.inl (hcount _), htail _, .inl (Nat.div_mul_le_self _ _)⟩
  | rleEnc => exact ⟨.inr (Nat.div_le_self _ _), Nat.zero_le _, .inr le_rfl⟩
  | rleDec =>
    exact ⟨.inl (by rw [rleDec_frames hbad]; exact Nat.div_le_self _ _), Nat.zero_le _, .inr le_rfl⟩
  | drleEnc =>
    exact ⟨.inl (hcount _), htail _, .inr ((Nat.le_add_left _ _).trans (drleEncode_length _).ge)⟩

/-- Settles O24: success, and each count is bounded by SRC_LEN or by DST_CAP, which are words. -/
theorem successWritesOutput : Obligations.SuccessWritesOutput := by
  intro i s r hr hp hrun hbad hfit hsrc hdst
  have hsrcLen := s.latch.operands.srcLen.isLt
  have hdstCap := s.latch.operands.dstCap.isLt
  have hcounts := run_counts_le hp hrun hbad
  exact ⟨exec_succeeds hr hp hrun hbad hfit hsrc hdst, by omega, by omega, by omega, by omega⟩

end Sys2Proof.Machine
